-- ==== Sys2Proof/Word.lean ====
section
/-! DEFINITION. The word types of the hardware and the two plain data types every layer uses: the four
channels and a group of four duty values (spec/00_scope.md R11, R16; spec/10_state.md R20). -/

namespace Sys2Proof

/-- A byte, the addressable unit of the EEPROM (20 R60), and a duty value (00 R16: `DUTY_W = 8`, 00 R10). -/
abbrev Byte := BitVec 8

/-- A command word on the `cmd` port: one length, 72 bits (30 R92). -/
abbrev CmdWord := BitVec 72

/-- The event request lines `ev[2:0]`: bit 0 the PWM tick, bit 1 the sensor timer, bit 2 byte received (30 R102). -/
abbrev EventLines := BitVec 3

/-- The four channels CH1..CH4, "ordinally fixed" (00 R9, R16). -/
inductive Channel where
  | ch1
  | ch2
  | ch3
  | ch4
  deriving DecidableEq, Repr

/-- One duty value for each channel, in channel order: a bank such as `cur[1..4]` (10 R20). -/
structure Duties where
  ch1 : Byte
  ch2 : Byte
  ch3 : Byte
  ch4 : Byte
  deriving DecidableEq, Repr

end Sys2Proof
end

