-- ==== Sys2Proof/Config.lean ====
section
/-! DEFINITION. What is fixed for the machine: the source's constants (spec/00_scope.md R9), the widths of
R10 (they stand in the types), the open reset duty, what an unlisted byte of the EEPROM reads as, and the
FREE VALUES, opaque constants nothing can evaluate. -/

namespace Sys2Proof.Config

/-- `PAGE`: the device page size, 64 bytes (00 R9, 20 R61). -/
def page : Nat := 64

/-- `CAP`: the device capacity, 32768 bytes (00 R9, 20 R60). -/
def cap : Nat := 32768

/-- `HOLD_SCALE`: base ticks in one hold unit (00 R9, 30 R94). -/
def holdScale : Nat := 10

/-- `TICK_PERIOD` in milliseconds (00 R9). No definition reads it: the model has no clock (70 R241, log 22). -/
def tickPeriodMs : Nat := 5

/-- `SETTLE` in milliseconds (00 R9). No definition reads it: a settle is a hold (41 R163, log 22). -/
def settleMs : Nat := 6

/-- The default of the OPEN parameter `RESET_DUTY[1..4]` (00 R10, D13), the value State.reset gives its field
`resetDuty` (log 3). No operation and no statement rests on it. -/
def defaultResetDuty : Duties := ⟨0, 0, 0, 0⟩

/-- What a byte of the EEPROM reads as when the memory lists nothing for it. The initial contents are a
parameter of a run (10 R40). DESIGN CHOICE 0xFF, unsafe, log 6. -/
def unlistedByte : Byte := 0xFF

/-- FREE VALUE (log 9): one byte for each draw. Bytes read from an absent device and left by a write to one
(U5), bytes of the page whose write cycle a reset cut (U9). -/
opaque freeByte : Nat → Byte

/-- FREE VALUE (log 4): `ser_a` while no command is in progress (10 R37, U13). -/
opaque freeSerA : Nat → BitVec 17

/-- FREE VALUE (log 4): `ser_p` while no command is in progress (10 R37, U13). -/
opaque freeSerP : Nat → BitVec 16

/-- FREE VALUE (log 4): `ser_n` while no command is in progress (10 R37, U13). -/
opaque freeSerN : Nat → BitVec 16

/-- FREE VALUE (log 4): `ser_buf` while no command is in progress (10 R38, U13). -/
opaque freeSerBuf : Nat → List Byte

end Sys2Proof.Config
end

