-- ==== Sys2Proof/Syntax.lean ====
section
/-! DEFINITION. The instructions of the hardware: one constructor for each row of spec/opcode_table.json,
that is the nine operations of the command port and the three events of the arbiter (spec/00_scope.md R2, R5;
spec/30_encoding.md R99, R101, R102). -/

namespace Sys2Proof

/-- The operations. A command's operands are those of the call forms of 30 R104. -/
inductive Instr where
  /-- `SetImmediate(d1,d2,d3,d4)` (40 R121). -/
  | setImmediate (d1 d2 d3 d4 : Byte)
  /-- `BeginRamp([t1,t2,t3,t4], fadeTicks, holdTicks)`, alias `PWM_Ramp` (40 R123). -/
  | beginRamp (t1 t2 t3 t4 : Byte) (fadeTicks holdTicks : BitVec 16)
  /-- `IsBusy()` (40 R124). -/
  | isBusy
  /-- `Probe()` (41 R151). -/
  | probe
  /-- `Capacity()` (41 R152). -/
  | capacity
  /-- `ReadByte(address)` (41 R153). -/
  | readByte (address : BitVec 16)
  /-- `ReadBuffer(address, length)` (41 R154). -/
  | readBuffer (address length : BitVec 16)
  /-- `WriteByte(address, value)` (41 R156). -/
  | writeByte (address : BitVec 16) (value : Byte)
  /-- `WriteBuffer(address, bytes)`: the word carries the number of bytes, `wdata` the bytes (41 R158, 30 R95). -/
  | writeBuffer (address : BitVec 16) (bytes : List Byte)
  /-- `OnTick()`, event `ev[0]`, the PWM base tick (40 R125). -/
  | onTick
  /-- `SensorHandler()`, event `ev[1]`, opaque (60 R206). -/
  | sensorHandler
  /-- `RxHandler()`, event `ev[2]`, opaque (60 R206). -/
  | rxHandler
  deriving DecidableEq, Repr

/-- What the hardware's input ports present for one instruction: a command word with the `wdata` stream
behind it (30 R92, R95), or the event vector (30 R102). -/
inductive PortInput where
  | command (word : CmdWord) (stream : List Byte)
  | event (lines : EventLines)
  deriving DecidableEq, Repr

end Sys2Proof
end

