-- ==== Sys2Proof/WellFormed.lean ====
section
/-! DEFINITION. Which instructions an encoding can express. Every operand but one has the exact width of its
field, so its type is the check; the payload of a `WriteBuffer` is bounded by its 16-bit length field
(spec/41_eeprom_serializer.md R158: `0 ≤ n ≤ 65535`). -/

namespace Sys2Proof

/-- The one check: the payload's length fits in the `length` field (41 R158, `LEN_W = 16` of 00 R10). -/
def Instr.wellFormed : Instr → Bool
  | .setImmediate _ _ _ _ => true
  | .beginRamp _ _ _ _ _ _ => true
  | .isBusy => true
  | .probe => true
  | .capacity => true
  | .readByte _ => true
  | .readBuffer _ _ => true
  | .writeByte _ _ => true
  | .writeBuffer _ bytes => decide (bytes.length < 65536)
  | .onTick => true
  | .sensorHandler => true
  | .rxHandler => true

/-- The instruction is well formed. -/
abbrev Instr.WellFormed (i : Instr) : Prop := i.wellFormed = true

end Sys2Proof
end

