-- ==== Sys2Proof/Decode.lean ====
section
/-! DEFINITION. The decoder and, after it, the encoder (spec/30_encoding.md R92 to R103). The decoder is total:
a command word is matched against the nine rows of R99 by mask and value, a word that matches none is rejected
by name; an event vector is resolved by the arbiter's fixed priority (spec/60_exceptions.md R204). -/

namespace Sys2Proof

/-- Why the decoder rejects what the ports present. -/
inductive DecodeError where
  /-- The opcode byte is none of the nine of 30 R99 (30 R103). -/
  | reservedOpcode
  /-- The opcode is defined and a reserved-zero field of its format is not zero (30 R103). -/
  | reservedField
  /-- `wdata` holds fewer bytes than the `length` field of a `WriteBuffer` announces (30 R95, log 16). -/
  | payloadShort
  /-- No event line is set: the event vector spells no handler. -/
  | noEvent
  deriving DecidableEq, Repr

/-- One row of the opcode map: a word `w` spells the operation iff `w AND mask = match` (30 R99). -/
structure OpRow where
  mask : CmdWord
  pattern : CmdWord
  deriving DecidableEq, Repr

/-- `w AND mask = match` (30 R99). -/
def OpRow.hits (r : OpRow) (w : CmdWord) : Bool := w &&& r.mask == r.pattern

/-- Row `0x01` of 30 R99. -/
def rowSetImmediate : OpRow := ⟨0xFF00000000FFFFFFFF, 0x010000000000000000⟩
/-- Row `0x02` of 30 R99. -/
def rowBeginRamp : OpRow := ⟨0xFF0000000000000000, 0x020000000000000000⟩
/-- Row `0x03` of 30 R99. -/
def rowIsBusy : OpRow := ⟨0xFFFFFFFFFFFFFFFFFF, 0x030000000000000000⟩
/-- Row `0x10` of 30 R99. -/
def rowProbe : OpRow := ⟨0xFFFFFFFFFFFFFFFFFF, 0x100000000000000000⟩
/-- Row `0x11` of 30 R99. -/
def rowCapacity : OpRow := ⟨0xFFFFFFFFFFFFFFFFFF, 0x110000000000000000⟩
/-- Row `0x12` of 30 R99. -/
def rowReadByte : OpRow := ⟨0xFF0000FFFFFFFFFFFF, 0x120000000000000000⟩
/-- Row `0x13` of 30 R99. -/
def rowReadBuffer : OpRow := ⟨0xFF00000000FFFFFFFF, 0x130000000000000000⟩
/-- Row `0x14` of 30 R99. -/
def rowWriteByte : OpRow := ⟨0xFF0000FFFF00FFFFFF, 0x140000000000000000⟩
/-- Row `0x15` of 30 R99. -/
def rowWriteBuffer : OpRow := ⟨0xFF00000000FFFFFFFF, 0x150000000000000000⟩

/-- The opcode map of 30 R99, in its order. -/
def opcodeMap : List OpRow :=
  [rowSetImmediate, rowBeginRamp, rowIsBusy, rowProbe, rowCapacity, rowReadByte, rowReadBuffer,
    rowWriteByte, rowWriteBuffer]

/-- `op = cmd[71:64]` (30 R92). -/
def opcodeField (w : CmdWord) : Byte := w.extractLsb' 64 8

/-- `cmd[63:56]`, `d1` or `t1`: channel 1 in the most significant operand byte (30 R92, R93). -/
def duty1Field (w : CmdWord) : Byte := w.extractLsb' 56 8

/-- `cmd[55:48]`, `d2` or `t2` (30 R92). -/
def duty2Field (w : CmdWord) : Byte := w.extractLsb' 48 8

/-- `cmd[47:40]`, `d3` or `t3` (30 R92). -/
def duty3Field (w : CmdWord) : Byte := w.extractLsb' 40 8

/-- `cmd[39:32]`, `d4` or `t4` (30 R92). -/
def duty4Field (w : CmdWord) : Byte := w.extractLsb' 32 8

/-- `cmd[31:16]`, `fadeTicks` of format R (30 R92). -/
def fadeField (w : CmdWord) : BitVec 16 := w.extractLsb' 16 16

/-- `cmd[15:0]`, `holdTicks` of format R (30 R92). -/
def holdField (w : CmdWord) : BitVec 16 := w.extractLsb' 0 16

/-- `cmd[63:48]`, `address` of format M (30 R92). -/
def addressField (w : CmdWord) : BitVec 16 := w.extractLsb' 48 16

/-- `cmd[47:32]`, `length` of format M (30 R92). -/
def lengthField (w : CmdWord) : BitVec 16 := w.extractLsb' 32 16

/-- `cmd[31:24]`, `value` of format M (30 R92). -/
def valueField (w : CmdWord) : Byte := w.extractLsb' 24 8

/-- The opcode is one of the nine defined ones (30 R99). -/
def definedOpcode (op : Byte) : Bool :=
  op == 0x01 || op == 0x02 || op == 0x03 || op == 0x10 || op == 0x11 || op == 0x12 || op == 0x13 ||
    op == 0x14 || op == 0x15

/-- A `WriteBuffer` takes the `length` bytes its word announces from the stream, byte 0 first; the rest of the
stream stays (30 R95, R96). -/
def takePayload (address : BitVec 16) (n : Nat) (stream : List Byte) : Except DecodeError (Instr × List Byte) :=
  if stream.length < n then .error .payloadShort
  else .ok (.writeBuffer address (stream.take n), stream.drop n)

/-- Decode one command: the instruction and what is left of the `wdata` stream (30 R96, R99, R103). -/
def decodeCommand (w : CmdWord) (stream : List Byte) : Except DecodeError (Instr × List Byte) :=
  if rowSetImmediate.hits w then
    .ok (.setImmediate (duty1Field w) (duty2Field w) (duty3Field w) (duty4Field w), stream)
  else if rowBeginRamp.hits w then
    .ok (.beginRamp (duty1Field w) (duty2Field w) (duty3Field w) (duty4Field w) (fadeField w) (holdField w),
      stream)
  else if rowIsBusy.hits w then .ok (.isBusy, stream)
  else if rowProbe.hits w then .ok (.probe, stream)
  else if rowCapacity.hits w then .ok (.capacity, stream)
  else if rowReadByte.hits w then .ok (.readByte (addressField w), stream)
  else if rowReadBuffer.hits w then .ok (.readBuffer (addressField w) (lengthField w), stream)
  else if rowWriteByte.hits w then .ok (.writeByte (addressField w) (valueField w), stream)
  else if rowWriteBuffer.hits w then takePayload (addressField w) (lengthField w).toNat stream
  else if definedOpcode (opcodeField w) then .error .reservedField
  else .error .reservedOpcode

/-- Which handler a vector of pending events selects: the PWM tick first, the sensor second, byte received
third (60 R204, R208). -/
def decodeEvents (ev : EventLines) : Option Instr :=
  if ev.getLsbD 0 then some .onTick
  else if ev.getLsbD 1 then some .sensorHandler
  else if ev.getLsbD 2 then some .rxHandler
  else none

/-- Decode what a port presents: the instruction and what is left of the `wdata` stream. -/
def decode : PortInput → Except DecodeError (Instr × List Byte)
  | .command w stream => decodeCommand w stream
  | .event ev =>
    match decodeEvents ev with
    | some i => .ok (i, [])
    | none => .error .noEvent

/-- A format Q or format M word: opcode, address, length, value, 24 zero bits (30 R92). -/
def wordM (op : Byte) (address length : BitVec 16) (value : Byte) : CmdWord :=
  op ++ address ++ length ++ value ++ (0 : BitVec 24)

/-- A format I or format R word: opcode, four duties, the two counts (30 R92). -/
def wordR (op d1 d2 d3 d4 : Byte) (fadeTicks holdTicks : BitVec 16) : CmdWord :=
  op ++ d1 ++ d2 ++ d3 ++ d4 ++ fadeTicks ++ holdTicks

/-- What the ports present for an instruction, from the formats of 30 R92 and the events of 30 R102. -/
def encode : Instr → PortInput
  | .setImmediate d1 d2 d3 d4 => .command (wordR 0x01 d1 d2 d3 d4 0 0) []
  | .beginRamp t1 t2 t3 t4 fadeTicks holdTicks => .command (wordR 0x02 t1 t2 t3 t4 fadeTicks holdTicks) []
  | .isBusy => .command (wordM 0x03 0 0 0) []
  | .probe => .command (wordM 0x10 0 0 0) []
  | .capacity => .command (wordM 0x11 0 0 0) []
  | .readByte address => .command (wordM 0x12 address 0 0) []
  | .readBuffer address length => .command (wordM 0x13 address length 0) []
  | .writeByte address value => .command (wordM 0x14 address 0 value) []
  | .writeBuffer address bytes => .command (wordM 0x15 address (BitVec.ofNat 16 bytes.length) 0) bytes
  | .onTick => .event 1
  | .sensorHandler => .event 2
  | .rxHandler => .event 4

/-- The same input with more bytes waiting behind it on `wdata`. -/
def PortInput.followedBy (p : PortInput) (more : List Byte) : PortInput :=
  match p with
  | .command w stream => .command w (stream ++ more)
  | .event ev => .event ev

/-- How many payload bytes a command word announces: its `length` field if it is a `WriteBuffer`, none
otherwise (30 R96). -/
def payloadLength (w : CmdWord) : Nat :=
  if rowWriteBuffer.hits w then (lengthField w).toNat else 0

/-- What the decoder reads from the bits of a row of spec/opcode_table.json: a 72-bit command word followed by
a payload of zero bytes, or an event vector of 3 bits in one byte (log 19). -/
def decodeTableWord (nbits w : Nat) : Option Instr :=
  if nbits ≤ 8 then
    if w < 8 then decodeEvents (BitVec.ofNat 3 w) else none
  else if w < 2 ^ 72 then
    match decodeCommand (BitVec.ofNat 72 w) (List.replicate (payloadLength (BitVec.ofNat 72 w)) 0) with
    | .ok (i, _) => some i
    | .error _ => none
  else none

end Sys2Proof
end

