-- ==== Sys2Proof/Machine/State.lean ====
section
/-! DEFINITION. The machine's state as plain data (spec/10_state.md, summary R44), grouped by owner: the ramp
engine, the event arbiter, the command port, the serializer, the EEPROM device; the two reasons to stop; the
state after reset (spec/70_reset_and_hazards.md R231). INVENTORY.md lists every field with its rule. -/

namespace Sys2Proof.Machine

/-- Why the machine stops with a fault. -/
inductive Fault where
  /-- Raised by a transport call (`Probe`, a read, a serializer transaction) that finds the device in its write
  cycle: the device has no step for it, the run is stuck (93 U6, 42 R186). Only a reset that cut a write command
  leads there (70 R234). Safe: the model stops where a real device would do something unknown. -/
  | deviceBusy
  deriving DecidableEq, Repr

/-- Why the machine gives an input no meaning. -/
inductive Refusal where
  /-- Raised by no meaning: the reserved form of an arm of `exec` without a meaning. No arm uses it. Safe. -/
  | notModelled (mnemonic : String)
  /-- Raised by the host's move on a command word whose opcode is reserved (30 R103, 93 U2). Safe. -/
  | reservedOpcode
  /-- Raised by the host's move on a defined opcode with a nonzero reserved field (30 R103, 93 U2). Safe. -/
  | reservedField
  /-- Raised by the host's move on a `WriteBuffer` whose payload is not all on `wdata` (30 R95, log 16). Safe. -/
  | payloadShort
  /-- Raised by `ReadByte`, `ReadBuffer`, `WriteByte`, `WriteBuffer` and by a transport call that touches an
  address at or above `CAP` (20 R66, 93 U1). Safe: the spec lets a model refuse the command. -/
  | outOfRange
  /-- Raised by a write transaction of zero bytes, which "has no defined meaning" (42 R184); no state that a run
  reaches leads there. Safe. -/
  | emptyTransaction
  deriving DecidableEq, Repr

/-- The state tag of the ramp engine: three values and no fourth (10 R25, 93 U10). -/
inductive EngineTag where
  | idle
  | fading
  | holding
  deriving DecidableEq, Repr

/-- The serializer's phase (10 R36). -/
inductive SerPhase where
  | idle
  | xfer
  | settle
  deriving DecidableEq, Repr

/-- `SETIMM_MODE`, the two forms of `SetImmediate` (40 R121, R122, D10). -/
inductive SetImmMode where
  | atomic
  | twoPhase
  deriving DecidableEq, Repr

/-- The ramp engine's registers (10 R21, R22, R25 to R28). -/
structure Engine where
  /-- `cur[1..4]` (10 R21). -/
  cur : Duties
  /-- `tgt[1..4]` (10 R22). -/
  tgt : Duties
  /-- `state` (10 R25). -/
  tag : EngineTag
  /-- `cnt`, `CNT_W = 20` (10 R26). -/
  cnt : BitVec 20
  /-- `fade`, `FADE_W = 16` (10 R27). -/
  fade : BitVec 16
  /-- `hold`, in base ticks (10 R28). -/
  hold : BitVec 20
  deriving DecidableEq, Repr

/-- The event arbiter (10 R31, R32). -/
structure Arbiter where
  pendPwm : Bool
  pendSensor : Bool
  pendRx : Bool
  inService : Bool
  deriving DecidableEq, Repr

/-- What a two-phase `SetImmediate` holds between its phases: the four values, and whether an `OnTick` has run
since phase A (40 R122, log 18). -/
structure ImmWait where
  duties : Duties
  ticked : Bool
  deriving DecidableEq, Repr

/-- The command port (10 R30, 30 R90). -/
structure Port where
  /-- `cmd_ready` (10 R30). -/
  cmdReady : Bool
  /-- `rsp[15:0]`, the response word of the last completed command (30 R98). -/
  rsp : BitVec 16
  /-- `rdata`, the bytes of the last completed command (30 R98). -/
  rdata : List Byte
  /-- `wdata`, the bytes the host has offered and no command has taken yet (30 R95). -/
  wdata : List Byte
  /-- The two-phase `SetImmediate` in progress, if any (40 R122). -/
  immWait : Option ImmWait
  deriving DecidableEq, Repr

/-- The serializer's registers (10 R36 to R38). -/
structure Serializer where
  /-- `ser_phase` (10 R36). -/
  phase : SerPhase
  /-- `ser_a`, `ADDR_W + 1` bits, the next device address (10 R37). -/
  a : BitVec 17
  /-- `ser_p`, the offset of the next byte to send (10 R37). -/
  p : BitVec 16
  /-- `ser_n`, the number of bytes still to send (10 R37). -/
  n : BitVec 16
  /-- `ser_buf`, the request's bytes (10 R38). -/
  buf : List Byte
  /-- The command in progress is a `WriteByte`: `send` in place of `sendBuffer` (41 R159). -/
  single : Bool
  deriving DecidableEq, Repr

/-- EEPROM contents: (address, byte) pairs in canonical form (`Memory.wf`), log 6. -/
abbrev Memory := List Host.Cell

/-- The EEPROM device behind the transport (10 R40 to R42). -/
structure Device where
  /-- `mem[0 .. CAP - 1]` (10 R40). -/
  mem : Memory
  /-- `present` (10 R41). -/
  present : Bool
  /-- `dev_busy` (10 R42). -/
  busy : Bool
  /-- The page of the latest write transaction, the one a write cycle is writing (20 R76, 70 R232, log 12). -/
  page : Nat
  deriving DecidableEq, Repr

/-- One entry of the observable history (42 R194): a duty call, a transport transaction with its arguments and
result, a settle event, a command's response. -/
inductive Observation where
  | duty (channel : Channel) (value : Byte)
  | devicePresent (answer : Bool)
  | get (address : Nat) (answer : Byte)
  | getBuffer (address length : Nat) (answer : List Byte)
  | send (address : Nat) (value : Byte)
  | sendBuffer (address : Nat) (bytes : List Byte)
  | settled
  | response (rsp : BitVec 16) (rdata : List Byte)
  deriving DecidableEq, Repr

/-- A command the host is to issue: the word for `cmd` and the bytes it puts on `wdata` for it (30 R92, R95). -/
structure HostCommand where
  word : CmdWord
  payload : List Byte
  deriving DecidableEq, Repr

/-- Which agent moves next (00 R15, 70 R241, log 1). -/
inductive Move where
  /-- The host issues its next command (30 R91). -/
  | host
  /-- The event sources raise any subset of the three lines (30 R102, 60 R203). -/
  | raise (lines : EventLines)
  /-- One entry of the arbiter (60 R204). -/
  | entry
  /-- One transfer step of the serializer sequencer (41 R159). -/
  | transfer
  /-- The settle timer's event (41 R159, 42 R192). -/
  | settleDone
  /-- The device ends by itself a write cycle that no settle waits for any more (70 R233, log 13). -/
  | deviceDone
  /-- Phase B of a two-phase `SetImmediate` (40 R122). -/
  | applyImmediate
  /-- The environment plugs the device in or out (10 R41, D19). -/
  | setPresent (value : Bool)
  /-- The reset input (70 R230). -/
  | reset
  deriving DecidableEq, Repr

/-- The whole machine. -/
structure State where
  engine : Engine
  /-- `out[1..4]`, the duty in effect at the output stage (10 R33). -/
  out : Duties
  arb : Arbiter
  port : Port
  ser : Serializer
  dev : Device
  /-- `SETIMM_MODE`, fixed for a machine: no step writes it (40 R122, log 18). -/
  setImmMode : SetImmMode
  /-- `RESET_DUTY[1..4]`, the OPEN parameter that every reset drives, fixed for a machine: no step writes it
  (00 R10, 70 R231, D13, log 3). -/
  resetDuty : Duties
  /-- The model's own: the host's commands not yet issued, in issue order (log 1). -/
  hostQueue : List HostCommand
  /-- The model's own: the moves still to happen, in order (log 1). -/
  schedule : List Move
  /-- The model's own: the observable history, newest first (42 R194, log 8). -/
  history : List Observation
  /-- The model's own: how many free values have been drawn (log 9). -/
  draws : Nat
  deriving DecidableEq, Repr

/-- The machine right after reset (70 R231, 10 R44), with no input placed (log 1). The values the spec does not
give: `RESET_DUTY` (log 3), the serializer's registers (log 4), `present` (log 5), the memory (log 6), the port
latches (log 7), the device's page (log 12), the model's own fields (logs 1, 8, 9, 18). -/
def State.reset : State where
  engine :=
    { cur := Config.defaultResetDuty, tgt := ⟨0, 0, 0, 0⟩, tag := .idle, cnt := 0, fade := 0, hold := 0 }
  out := Config.defaultResetDuty
  arb := { pendPwm := false, pendSensor := false, pendRx := false, inService := false }
  port := { cmdReady := true, rsp := 0, rdata := [], wdata := [], immWait := none }
  ser := { phase := .idle, a := 0, p := 0, n := 0, buf := [], single := false }
  dev := { mem := [], present := true, busy := false, page := 0 }
  setImmMode := .atomic
  resetDuty := Config.defaultResetDuty
  hostQueue := []
  schedule := []
  history := []
  draws := 0

end Sys2Proof.Machine
end

