-- ==== Sys2Proof/Machine/Memory.lean ====
section
/-! DEFINITION. The EEPROM contents as a list of (address, byte) pairs in canonical form: addresses strictly
rising and below `CAP`, no byte listed that equals what an unlisted address reads as (log 6). One byte is the
unit (spec/20_memory.md R60, R62). -/

namespace Sys2Proof.Machine

/-- `mem[a]`. -/
def Memory.read : Memory → Nat → Byte
  | [], _ => Config.unlistedByte
  | (b, w) :: m, a => if a = b then w else Memory.read m a

/-- `mem[a] <- v`, in place or inserted in order; writing the unlisted value removes the entry. -/
def Memory.write : Memory → Nat → Byte → Memory
  | [], a, v => if v = Config.unlistedByte then [] else [(a, v)]
  | (b, w) :: m, a, v =>
    if a < b then
      if v = Config.unlistedByte then (b, w) :: m else (a, v) :: (b, w) :: m
    else if a = b then
      if v = Config.unlistedByte then m else (a, v) :: m
    else (b, w) :: Memory.write m a v

/-- The canonical form of a memory whose addresses are all at least `lo`. -/
def Memory.wfFrom : Nat → Memory → Bool
  | _, [] => true
  | lo, (a, v) :: m =>
    decide (lo ≤ a) && decide (a < Config.cap) && decide (v ≠ Config.unlistedByte) && Memory.wfFrom (a + 1) m

/-- The canonical form. -/
def Memory.wf (m : Memory) : Bool := Memory.wfFrom 0 m

/-- `mem[a], mem[a + 1], …`, `n` bytes in ascending address order (20 R62, 42 R182). -/
def Memory.readBytes (m : Memory) (a : Nat) : Nat → List Byte
  | 0 => []
  | n + 1 => Memory.read m a :: Memory.readBytes m (a + 1) n

/-- The address at which the device stores byte `k` of a write transaction at `a`: it wraps inside the page of
`a` (20 R68, 42 R184). -/
def wrapAddress (a k : Nat) : Nat := a / Config.page * Config.page + (a % Config.page + k) % Config.page

/-- Store the bytes of one write transaction at `a`, from byte number `k` on, in order (20 R68, 42 R184). -/
def Memory.storeFrom (m : Memory) (a k : Nat) : List Byte → Memory
  | [] => m
  | v :: vs => Memory.storeFrom (Memory.write m (wrapAddress a k) v) a (k + 1) vs

end Sys2Proof.Machine
end

