-- ==== Sys2Proof/Machine/Operands.lean ====
section
/-! DEFINITION. Operand forms and the arithmetic on them (spec/30_encoding.md R94, spec/40_ramp_engine.md R127,
R133, spec/41_eeprom_serializer.md R159, R165): every quantity is unsigned. -/

namespace Sys2Proof.Machine

/-- Read one channel of a bank. -/
def duty (d : Duties) : Channel → Byte
  | .ch1 => d.ch1
  | .ch2 => d.ch2
  | .ch3 => d.ch3
  | .ch4 => d.ch4

/-- Write one channel of a bank. -/
def setDuty (d : Duties) (c : Channel) (v : Byte) : Duties :=
  match c with
  | .ch1 => { d with ch1 := v }
  | .ch2 => { d with ch2 := v }
  | .ch3 => { d with ch3 := v }
  | .ch4 => { d with ch4 := v }

/-- `hold <- zext_20(holdTicks) * 10` (30 R94 (a), 40 R123). -/
def scaleHold (holdTicks : BitVec 16) : BitVec 20 := holdTicks.setWidth 20 * BitVec.ofNat 20 Config.holdScale

/-- `cnt <- zext_20(fadeTicks)` (30 R94 (b), 40 R123). -/
def widenFade (fadeTicks : BitVec 16) : BitVec 20 := fadeTicks.setWidth 20

/-- `ser_a <- zext_17(address)` (30 R94 (c), 41 R158). -/
def widenAddress (address : BitVec 16) : BitVec 17 := address.setWidth 17

/-- Move one duty one unit toward its target, unsigned (40 R127, R133). -/
def moveToward (cur tgt : Byte) : Byte :=
  if cur.toNat < tgt.toNat then cur + 1 else if tgt.toNat < cur.toNat then cur - 1 else cur

/-- Move all four duties (40 R125). -/
def moveAll (cur tgt : Duties) : Duties :=
  ⟨moveToward cur.ch1 tgt.ch1, moveToward cur.ch2 tgt.ch2, moveToward cur.ch3 tgt.ch3,
    moveToward cur.ch4 tgt.ch4⟩

/-- An access of `n` bytes at `a` touches no address at or above `CAP`; an access of no byte is in range
anywhere (20 R66, C12). -/
def inRange (a n : Nat) : Bool := n == 0 || decide (a + n ≤ Config.cap)

/-- The chunk of the next transaction: `min(64 - (ser_a mod 64), ser_n)` (41 R159). -/
def chunk (a n : Nat) : Nat := min (Config.page - a % Config.page) n

end Sys2Proof.Machine
end

