-- ==== Sys2Proof/Machine/Flags.lean ====
section
/-! DEFINITION. The flags that are views of other state (spec/10_state.md R29, R31, R39, R25). The hardware has no
arithmetic flags (R29). -/

namespace Sys2Proof.Machine

/-- `busy`: true iff the engine is not `Idle` (10 R29). -/
def busy (s : State) : Bool := s.engine.tag != .idle

/-- `settling`: equal to `ser_phase = SerSettle` (10 R39). -/
def settling (s : State) : Bool := s.ser.phase == .settle

/-- The three pending flags as the vector the arbiter resolves, bit 0 the PWM tick (10 R31, 30 R102). -/
def pending (s : State) : EventLines :=
  BitVec.ofBool s.arb.pendRx ++ BitVec.ofBool s.arb.pendSensor ++ BitVec.ofBool s.arb.pendPwm

/-- The two-bit encoding of the state tag (10 R25). -/
def tagCode : EngineTag → BitVec 2
  | .idle => 0
  | .fading => 1
  | .holding => 2

/-- A boolean answer as a response word: `0x0001` or `0x0000` (30 R98). -/
def boolWord (b : Bool) : BitVec 16 := if b then 1 else 0

end Sys2Proof.Machine
end

