-- ==== Sys2Proof/Machine/Ops.lean ====
section
/-! DEFINITION. The shared operations over the state: duty calls on the output stage, command completion, free
draws, what clears the serializer, the arbiter's ENTRY and the end of a handler (what this hardware has in place
of taking an exception and returning from one: spec/60_exceptions.md R204, R210, R211), and the reset step
(spec/70_reset_and_hazards.md R231). -/

namespace Sys2Proof.Machine

/-- Continue after a step that may have stopped. -/
def andThen {α β : Type} (o : Host.Outcome α Fault Refusal) (k : α → Host.Outcome β Fault Refusal) :
    Host.Outcome β Fault Refusal :=
  match o with
  | .next x => k x
  | .fault f => .fault f
  | .refused r => .refused r

/-- `emit Duty(i, v)`: one call `setChannelDuty(CHi, v)`, which makes `v` the duty in effect (00 R13, 42 R188). -/
def emitDuty (c : Channel) (v : Byte) (s : State) : State :=
  { s with out := setDuty s.out c v, history := .duty c v :: s.history }

/-- The four calls, CH1 to CH4 in this order (40 R121, R125, R127, D12). -/
def emitAll (d : Duties) (s : State) : State :=
  emitDuty .ch4 d.ch4 (emitDuty .ch3 d.ch3 (emitDuty .ch2 d.ch2 (emitDuty .ch1 d.ch1 s)))

/-- `cur[i] <- d_i; emit Duty(i, d_i)` for the four channels (40 R121). -/
def applyDuties (d : Duties) (s : State) : State :=
  emitAll d { s with engine := { s.engine with cur := d } }

/-- Deliver a response: the word on `rsp`, the bytes on `rdata` (30 R98). -/
def respond (rsp : BitVec 16) (rdata : List Byte) (s : State) : State :=
  { s with port := { s.port with rsp := rsp, rdata := rdata }, history := .response rsp rdata :: s.history }

/-- The command port's ready flag (10 R30). -/
def setReady (ready : Bool) (s : State) : State :=
  { s with port := { s.port with cmdReady := ready } }

/-- A blocking command completes: it answers `0x0000` and the port is ready again (30 R91, R98, 10 R30). -/
def completeCommand (s : State) : State := setReady true (respond 0 [] s)

/-- `k` free bytes from draw number `d` on (log 9). -/
def freeBytes (d : Nat) : Nat → List Byte
  | 0 => []
  | k + 1 => Config.freeByte d :: freeBytes (d + 1) k

/-- Count `k` draws of free values (log 9). -/
def countDraws (k : Nat) (s : State) : State := { s with draws := s.draws + k }

/-- `ser_phase <- SerIdle`; the serializer's other registers are unspecified while no command is in progress, so
they become free values (10 R37, R38, 93 U13, log 4). -/
def clearSerializer (s : State) : State :=
  { s with
    ser :=
      { phase := .idle, a := Config.freeSerA s.draws, p := Config.freeSerP s.draws,
        n := Config.freeSerN s.draws, buf := Config.freeSerBuf s.draws, single := s.ser.single }
    draws := s.draws + 1 }

/-- A blocking write command starts: `ser_a, ser_p, ser_n <- address, 0, length`, `ser_phase <- SerXfer`,
`cmd_ready <- false` (41 R159). -/
def startWrite (single : Bool) (address : BitVec 16) (bytes : List Byte) (s : State) : State :=
  setReady false
    { s with
      ser :=
        { phase := .xfer, a := widenAddress address, p := 0, n := BitVec.ofNat 16 bytes.length,
          buf := bytes, single := single } }

/-- The event sources raise a subset of the lines; a line already pending stays pending once (60 R203, R207). -/
def raiseEvents (ev : EventLines) (s : State) : State :=
  { s with
    arb :=
      { s.arb with
        pendPwm := s.arb.pendPwm || ev.getLsbD 0
        pendSensor := s.arb.pendSensor || ev.getLsbD 1
        pendRx := s.arb.pendRx || ev.getLsbD 2 } }

/-- THE ENTRY of the arbiter: it clears the pending flag of the one event it serves (PWM tick first, sensor
second, byte received third), leaves the others, and marks a handler as executing. It saves nothing and changes
no mode (60 R204, R210, 10 R32). -/
def enterHandler (s : State) : State :=
  if s.arb.pendPwm then { s with arb := { s.arb with pendPwm := false, inService := true } }
  else if s.arb.pendSensor then { s with arb := { s.arb with pendSensor := false, inService := true } }
  else if s.arb.pendRx then { s with arb := { s.arb with pendRx := false, inService := true } }
  else s

/-- THE RETURN: the handler's step ends and the arbiter is ready for the next entry (60 R211). -/
def leaveHandler (s : State) : State := { s with arb := { s.arb with inService := false } }

/-- An `OnTick` has run during the wait of a two-phase `SetImmediate`, if one is in progress (40 R122). -/
def noteTick (s : State) : State :=
  { s with port := { s.port with immWait := s.port.immWait.map fun w => { w with ticked := true } } }

/-- A device write cycle cut by a reset leaves every byte of its page unspecified: free values (70 R232, 93 U9,
log 12). -/
def scramblePage (s : State) : State :=
  { s with
    dev :=
      { s.dev with
        mem := Memory.storeFrom s.dev.mem (s.dev.page * Config.page) 0 (freeBytes s.draws Config.page) }
    draws := s.draws + Config.page }

/-- The registers the reset step writes (70 R231), with the four duty calls it makes. -/
def resetRegisters (s : State) : State :=
  clearSerializer
    (emitAll s.resetDuty
      { s with
        engine :=
          { cur := s.resetDuty, tgt := ⟨0, 0, 0, 0⟩, tag := .idle, cnt := 0, fade := 0, hold := 0 }
        arb := { pendPwm := false, pendSensor := false, pendRx := false, inService := false }
        port := { s.port with cmdReady := true, immWait := none } })

/-- The reset step, possible in any state: the command in progress is abandoned without a response, `present` and
`dev_busy` are not touched, and `mem` keeps its contents but for the page of a write cycle the reset cuts
(70 R230 to R233). -/
def resetStep (s : State) : State :=
  resetRegisters (if s.dev.busy then scramblePage s else s)

end Sys2Proof.Machine
end

