-- ==== Sys2Proof/Machine/Transport.lean ====
section
/-! DEFINITION. The transport's five calls and the EEPROM device behind it
(spec/42_environment_interfaces.md R180 to R187, spec/20_memory.md R66, R68). Each call is one transaction, recorded
in the history (R194). A call outside the device's capacity is refused (93 U1), a call during the device's write
cycle finds no step of the device (93 U6), an absent device answers free bytes and leaves free bytes (93 U5). -/

namespace Sys2Proof.Machine

/-- Record one observable event (42 R194). -/
def observe (o : Observation) (s : State) : State := { s with history := o :: s.history }

/-- The device starts its write cycle after a write transaction at `a` (42 R183, R184, R186). -/
def startCycle (a : Nat) (m : Memory) (s : State) : State :=
  { s with dev := { s.dev with mem := m, busy := true, page := a / Config.page } }

/-- `devicePresent()` (42 R185). -/
def transportPresent (s : State) : Host.Outcome (Bool × State) Fault Refusal :=
  if s.dev.busy then .fault .deviceBusy
  else .next (s.dev.present, observe (.devicePresent s.dev.present) s)

/-- The bytes a read of `n` bytes at `a` returns: the contents, or free bytes from an absent device (42 R182,
93 U5, log 10). -/
def readAnswer (a n : Nat) (s : State) : List Byte :=
  if s.dev.present then Memory.readBytes s.dev.mem a n else freeBytes s.draws n

/-- How many free values a transaction of `n` bytes draws. -/
def drawsOf (n : Nat) (s : State) : Nat := if s.dev.present then 0 else n

/-- `get(address)` (42 R181). -/
def transportGet (a : Nat) (s : State) : Host.Outcome (Byte × State) Fault Refusal :=
  if inRange a 1 then
    if s.dev.busy then .fault .deviceBusy
    else
      let v := if s.dev.present then Memory.read s.dev.mem a else Config.freeByte s.draws
      .next (v, observe (.get a v) (countDraws (drawsOf 1 s) s))
  else .refused .outOfRange

/-- `getBuffer(address, length)` (42 R182). -/
def transportGetBuffer (a n : Nat) (s : State) : Host.Outcome (List Byte × State) Fault Refusal :=
  if inRange a n then
    if s.dev.busy then .fault .deviceBusy
    else
      let bytes := readAnswer a n s
      .next (bytes, observe (.getBuffer a n bytes) (countDraws (drawsOf n s) s))
  else .refused .outOfRange

/-- What a write transaction of these bytes leaves at the addressed bytes: the bytes themselves, or free bytes
behind an absent device (93 U5, U8, log 11). -/
def storedBytes (bytes : List Byte) (s : State) : List Byte :=
  if s.dev.present then bytes else freeBytes s.draws bytes.length

/-- `send(address, byte)` (42 R183). -/
def transportSend (a : Nat) (v : Byte) (s : State) : Host.Outcome State Fault Refusal :=
  if inRange a 1 then
    if s.dev.busy then .fault .deviceBusy
    else
      .next
        (observe (.send a v)
          (countDraws (drawsOf 1 s) (startCycle a (Memory.storeFrom s.dev.mem a 0 (storedBytes [v] s)) s)))
  else .refused .outOfRange

/-- `sendBuffer(address, bytes)`: the device's wrap is in `Memory.storeFrom` (42 R184). -/
def transportSendBuffer (a : Nat) (bytes : List Byte) (s : State) : Host.Outcome State Fault Refusal :=
  if bytes.isEmpty then .refused .emptyTransaction
  else if inRange a 1 then
    if s.dev.busy then .fault .deviceBusy
    else
      .next
        (observe (.sendBuffer a bytes)
          (countDraws (drawsOf bytes.length s)
            (startCycle a (Memory.storeFrom s.dev.mem a 0 (storedBytes bytes s)) s)))
  else .refused .outOfRange

end Sys2Proof.Machine
end

