-- ==== Sys2Proof/Machine/Eeprom.lean ====
section
/-! DEFINITION. The serializer's six operations and the two steps of its sequencer
(spec/41_eeprom_serializer.md). -/

namespace Sys2Proof.Machine

/-- `Probe()`: one `devicePresent()` (41 R151). -/
def execProbe (s : State) : Host.Outcome State Fault Refusal :=
  andThen (transportPresent s) fun r => .next (respond (boolWord r.1) [] r.2)

/-- `Capacity()`: the constant, no transaction (41 R152). -/
def execCapacity (s : State) : Host.Outcome State Fault Refusal :=
  .next (respond (BitVec.ofNat 16 Config.cap) [] s)

/-- `ReadByte(address)`: one `get` (41 R153). -/
def execReadByte (address : BitVec 16) (s : State) : Host.Outcome State Fault Refusal :=
  andThen (transportGet address.toNat s) fun r => .next (respond (r.1.setWidth 16) [] r.2)

/-- `ReadBuffer(address, length)`: one `getBuffer` whatever the length (41 R154). -/
def execReadBuffer (address length : BitVec 16) (s : State) : Host.Outcome State Fault Refusal :=
  andThen (transportGetBuffer address.toNat length.toNat s) fun r => .next (respond 0 r.1 r.2)

/-- `WriteByte(address, value)`: the sequencer starts with one byte to `send` (41 R156, R159). -/
def execWriteByte (address : BitVec 16) (value : Byte) (s : State) : Host.Outcome State Fault Refusal :=
  if inRange address.toNat 1 then .next (startWrite true address [value] s) else .refused .outOfRange

/-- `WriteBuffer(address, bytes)`: of no byte, it completes at once without a transaction (41 R161); otherwise the
sequencer starts (41 R158, R159). -/
def execWriteBuffer (address : BitVec 16) (bytes : List Byte) (s : State) :
    Host.Outcome State Fault Refusal :=
  if bytes.isEmpty then .next (respond 0 [] s)
  else if inRange address.toNat bytes.length then .next (startWrite false address bytes s)
  else .refused .outOfRange

/-- The bytes of the next transaction, `ser_buf[ser_p .. ser_p + k - 1]` (41 R159). -/
def nextBytes (q : Serializer) : List Byte := (q.buf.drop q.p.toNat).take (chunk q.a.toNat q.n.toNat)

/-- The next transaction: `send` for a `WriteByte`, `sendBuffer` for a `WriteBuffer` (41 R156, R157, R159). -/
def nextTransaction (s : State) : Host.Outcome State Fault Refusal :=
  if s.ser.single then
    match nextBytes s.ser with
    | [] => .refused .emptyTransaction
    | v :: _ => transportSend s.ser.a.toNat v s
  else transportSendBuffer s.ser.a.toNat (nextBytes s.ser) s

/-- `ser_a <- ser_a + k`, `ser_p <- ser_p + k`, `ser_n <- ser_n - k`, `ser_phase <- SerSettle` (41 R159). -/
def advance (q : Serializer) : Serializer :=
  let k := chunk q.a.toNat q.n.toNat
  { q with
    phase := .settle
    a := q.a + BitVec.ofNat 17 k
    p := q.p + BitVec.ofNat 16 k
    n := q.n - BitVec.ofNat 16 k }

/-- Step *transfer* of the sequencer in phase `SerXfer`: with nothing left the command completes; otherwise one
transaction, and its settle begins (41 R159, R163). -/
def transferStep (s : State) : Host.Outcome State Fault Refusal :=
  if s.ser.n = 0 then .next (completeCommand (clearSerializer s))
  else andThen (nextTransaction s) fun t => .next { t with ser := advance t.ser }

/-- Step *settle-done*: `ser_phase <- SerXfer`, and the device's write cycle is over (41 R159, 10 R42, 93 U7). -/
def settleDoneStep (s : State) : State :=
  observe .settled
    { s with ser := { s.ser with phase := .xfer }, dev := { s.dev with busy := false } }

end Sys2Proof.Machine
end

