-- ==== Sys2Proof/Machine/Events.lean ====
section
/-! DEFINITION. The two opaque handlers (spec/60_exceptions.md R206): they read and write no state of this
hardware; each takes one entry. What they do outside the hardware is out of scope (spec/00_scope.md R7, log 21). -/

namespace Sys2Proof.Machine

/-- `SensorHandler()` (60 R206): nothing of this hardware changes; the handler ends (60 R211). -/
def execSensorHandler (s : State) : Host.Outcome State Fault Refusal := .next (leaveHandler s)

/-- `RxHandler()` (60 R206): nothing of this hardware changes; the handler ends (60 R211). -/
def execRxHandler (s : State) : Host.Outcome State Fault Refusal := .next (leaveHandler s)

end Sys2Proof.Machine
end

