-- ==== Sys2Proof/Machine/Ramp.lean ====
section
/-! DEFINITION. The ramp engine's four operations (spec/40_ramp_engine.md). -/

namespace Sys2Proof.Machine

/-- `state <- Idle; cnt <- 0`: the cancellation of 40 R121, phase A of R122. -/
def cancelRamp (s : State) : State :=
  { s with engine := { s.engine with tag := .idle, cnt := 0 } }

/-- `SetImmediate(d1,d2,d3,d4)`, accepted in every state. Atomic form: 40 R121. Two-phase form: phase A now, the
command port not ready, the values wait for phase B: 40 R122. -/
def execSetImmediate (d1 d2 d3 d4 : Byte) (s : State) : Host.Outcome State Fault Refusal :=
  match s.setImmMode with
  | .atomic => .next (respond 0 [] (applyDuties ⟨d1, d2, d3, d4⟩ (cancelRamp s)))
  | .twoPhase =>
    let t := setReady false (cancelRamp s)
    .next { t with port := { t.port with immWait := some { duties := ⟨d1, d2, d3, d4⟩, ticked := false } } }

/-- Phase B of the two-phase form: the loop of 40 R121, then the command completes (40 R122). It waits for at
least one `OnTick` since phase A. -/
def applyImmediateStep (s : State) : State :=
  match s.port.immWait with
  | some w =>
    if w.ticked then
      let t := completeCommand (applyDuties w.duties s)
      { t with port := { t.port with immWait := none } }
    else s
  | none => s

/-- What an accepted `BeginRamp` writes (40 R123). -/
def acceptRamp (tgt : Duties) (fadeTicks holdTicks : BitVec 16) (e : Engine) : Engine :=
  { e with
    tgt := tgt, fade := fadeTicks, hold := scaleHold holdTicks, cnt := widenFade fadeTicks, tag := .fading }

/-- `BeginRamp([t1,t2,t3,t4], fadeTicks, holdTicks)`: accepted only in `Idle`, otherwise silently ignored; the
response is the same either way (40 R123, 30 R98). -/
def execBeginRamp (t1 t2 t3 t4 : Byte) (fadeTicks holdTicks : BitVec 16) (s : State) :
    Host.Outcome State Fault Refusal :=
  if busy s then .next (respond 0 [] s)
  else .next (respond 0 [] { s with engine := acceptRamp ⟨t1, t2, t3, t4⟩ fadeTicks holdTicks s.engine })

/-- `IsBusy()` (40 R124). -/
def execIsBusy (s : State) : Host.Outcome State Fault Refusal :=
  .next (respond (boolWord (busy s)) [] s)

/-- The fade step: the moves, the four duty calls, then the test on the moved values (40 R125, R127). -/
def fadeStep (s : State) : State :=
  let moved := moveAll s.engine.cur s.engine.tgt
  let t := applyDuties moved s
  if moved = s.engine.tgt then
    { t with engine := { t.engine with cnt := t.engine.hold, tag := .holding } }
  else { t with engine := { t.engine with cnt := widenFade t.engine.fade } }

/-- `if cnt != 0: cnt <- cnt - 1`, always last (40 R130). -/
def decrementCount (s : State) : State :=
  if s.engine.cnt = 0 then s else { s with engine := { s.engine with cnt := s.engine.cnt - 1 } }

/-- The three alternatives of a tick, on the values at its start (40 R126 to R129). -/
def tickBranch (s : State) : State :=
  if s.engine.tag = .fading ∧ s.engine.cnt = 0 then fadeStep s
  else if s.engine.tag = .holding ∧ s.engine.cnt = 0 then { s with engine := { s.engine with tag := .idle } }
  else s

/-- The body of `OnTick` (40 R125). -/
def tickBody (s : State) : State := decrementCount (tickBranch s)

/-- `OnTick()`: its body, the note to a waiting two-phase `SetImmediate`, the handler's end (40 R125, R122,
60 R211). -/
def execOnTick (s : State) : Host.Outcome State Fault Refusal :=
  .next (leaveHandler (noteTick (tickBody s)))

end Sys2Proof.Machine
end

