-- ==== Sys2Proof/Machine/Dispatch.lean ====
section
/-! DEFINITION. What each instruction does: one arm per constructor of Instr. -/

namespace Sys2Proof.Machine

def exec (i : Instr) (s : State) : Host.Outcome State Fault Refusal :=
  match i with
  | .setImmediate d1 d2 d3 d4 => Sys2Proof.Machine.execSetImmediate d1 d2 d3 d4 s
  | .beginRamp t1 t2 t3 t4 fadeTicks holdTicks => Sys2Proof.Machine.execBeginRamp t1 t2 t3 t4 fadeTicks holdTicks s
  | .isBusy => Sys2Proof.Machine.execIsBusy s
  | .probe => Sys2Proof.Machine.execProbe s
  | .capacity => Sys2Proof.Machine.execCapacity s
  | .readByte address => Sys2Proof.Machine.execReadByte address s
  | .readBuffer address length => Sys2Proof.Machine.execReadBuffer address length s
  | .writeByte address value => Sys2Proof.Machine.execWriteByte address value s
  | .writeBuffer address bytes => Sys2Proof.Machine.execWriteBuffer address bytes s
  | .onTick => Sys2Proof.Machine.execOnTick s
  | .sensorHandler => Sys2Proof.Machine.execSensorHandler s
  | .rxHandler => Sys2Proof.Machine.execRxHandler s

end Sys2Proof.Machine
end

