-- ==== Sys2Proof/Machine/Moves.lean ====
section
/-! DEFINITION. One move of each agent (spec/00_scope.md R15, spec/70_reset_and_hazards.md R240, R241), and where
the next instruction is fetched: a command from the port, a handler from the pending flags. An agent that may not
step makes no move (log 2). -/

namespace Sys2Proof.Machine

/-- A rejected command word as a refusal of the step (30 R103, 93 U2). -/
def refusalOf : DecodeError → Refusal
  | .reservedOpcode => .reservedOpcode
  | .reservedField => .reservedField
  | .payloadShort => .payloadShort
  | .noEvent => .reservedOpcode

/-- What the command port presents when the host issues this command (30 R91, R92, R95). -/
def portInput (c : HostCommand) (s : State) : PortInput := .command c.word (s.port.wdata ++ c.payload)

/-- The command is off the host's queue and its payload off the stream. -/
def takeCommand (rest : List HostCommand) (left : List Byte) (s : State) : State :=
  { s with hostQueue := rest, port := { s.port with wdata := left } }

/-- The host's move: with `cmd_ready` true it issues its next command, which the hardware decodes and executes;
otherwise the host is blocked (30 R91, R97, 93 U3). -/
def hostMove (s : State) : Host.Outcome State Fault Refusal :=
  match s.hostQueue with
  | [] => .next s
  | c :: rest =>
    if s.port.cmdReady then
      match decode (portInput c s) with
      | .ok (i, left) => exec i (takeCommand rest left s)
      | .error e => .refused (refusalOf e)
    else .next s

/-- One entry of the arbiter, enabled when a flag is pending and no handler executes: the entry, then the handler
(60 R204). -/
def entryMove (s : State) : Host.Outcome State Fault Refusal :=
  if s.arb.inService then .next s
  else
    match decodeEvents (pending s) with
    | some i => exec i (enterHandler s)
    | none => .next s

/-- The serializer's move (41 R159). -/
def transferMove (s : State) : Host.Outcome State Fault Refusal :=
  if s.ser.phase = .xfer then transferStep s else .next s

/-- The settle timer's move, only while settling (41 R159, 42 R192). -/
def settleMove (s : State) : Host.Outcome State Fault Refusal :=
  if settling s then .next (settleDoneStep s) else .next s

/-- The device ends a write cycle that no settle waits for (70 R233, log 13). -/
def deviceMove (s : State) : Host.Outcome State Fault Refusal :=
  if settling s then .next s else .next { s with dev := { s.dev with busy := false } }

/-- The environment's move (10 R41). -/
def presentMove (b : Bool) (s : State) : Host.Outcome State Fault Refusal :=
  .next { s with dev := { s.dev with present := b } }

/-- The move of one agent. -/
def runMove (m : Move) (s : State) : Host.Outcome State Fault Refusal :=
  match m with
  | .host => hostMove s
  | .raise ev => .next (raiseEvents ev s)
  | .entry => entryMove s
  | .transfer => transferMove s
  | .settleDone => settleMove s
  | .deviceDone => deviceMove s
  | .applyImmediate => .next (applyImmediateStep s)
  | .setPresent b => presentMove b s
  | .reset => .next (resetStep s)

/-- One step: the next scheduled agent moves; with an empty schedule nothing moves (log 1). -/
def runSchedule (s : State) : Host.Outcome State Fault Refusal :=
  match s.schedule with
  | [] => .next s
  | m :: rest => runMove m { s with schedule := rest }

/-- The command word `w` with a payload of zero bytes, next on the command port, and the host next to move. -/
def placeCommand (w : CmdWord) (s : State) : State :=
  { s with
    hostQueue := { word := w, payload := List.replicate (payloadLength w) 0 } :: s.hostQueue
    port := { s.port with cmdReady := true, wdata := [] }
    schedule := .host :: s.schedule }

/-- The event vector `ev` pending, no handler executing, and the arbiter next to move. -/
def placeEvents (ev : EventLines) (s : State) : State :=
  { s with
    arb :=
      { pendPwm := ev.getLsbD 0, pendSensor := ev.getLsbD 1, pendRx := ev.getLsbD 2, inService := false }
    schedule := .entry :: s.schedule }

end Sys2Proof.Machine
end

