-- ==== Sys2Proof/Machine/Step.lean ====
section
/-! DEFINITION. The step of the machine, and an instruction placed where the next step fetches it. -/

namespace Sys2Proof.Machine

/-- One step of the machine (spec/70_reset_and_hazards.md R240, R241). -/
def step (s : State) : Host.Outcome State Fault Refusal := runSchedule s

/-- The state with the instruction of a row of spec/opcode_table.json stored where the very next step fetches it:
a command word at the port's ready end, an event vector in the pending flags (logs 1 and 19). -/
def State.withFetchWord (s : State) (nbits w : Nat) : State :=
  if nbits ≤ 8 then placeEvents (BitVec.ofNat 3 w) s else placeCommand (BitVec.ofNat 72 w) s

end Sys2Proof.Machine
end

