-- ==== Sys2Proof/Machine/Runs.lean ====
section
/-! DEFINITION. Infinite runs of the machine under a free schedule and the weak fairness of
spec/70_reset_and_hazards.md R241: "each, if continuously able to step, eventually steps". A run is fed from outside
at every step, since `State.schedule` and `State.hostQueue` are finite lists (log 1). -/

namespace Sys2Proof.Machine

/-- What comes from outside at one step of a run: which agent moves, and the commands the host's program adds. -/
structure Input where
  move : Move
  offered : List HostCommand
  deriving DecidableEq, Repr

/-- The state with one input placed: its move is the only one scheduled, its commands stand behind the others. -/
def feed (i : Input) (s : State) : State :=
  { s with schedule := [i.move], hostQueue := s.hostQueue ++ i.offered }

/-- The states `run 0, run 1, …` are those of the machine fed with `inputs 0, inputs 1, …`, none of which stops it. -/
def IsRun (inputs : Nat → Input) (run : Nat → State) : Prop :=
  ∀ n, step (feed (inputs n) (run n)) = .next (run (n + 1))

/-- Weak fairness of an agent: from no point on is it able to step for ever without ever stepping (70 R241). -/
def WeaklyFair (able : State → Bool) (isMove : Move → Bool) (inputs : Nat → Input) (run : Nat → State) : Prop :=
  ∀ n, (∀ m, n ≤ m → able (run m) = true) → ∃ m, n ≤ m ∧ isMove (inputs m).move = true

/-- A move in which the tick source raises its line, alone or with others (30 R102). -/
def raisesTick : Move → Bool
  | .raise ev => ev.getLsbD 0
  | .host | .entry | .transfer | .settleDone | .deviceDone | .applyImmediate | .setPresent _ | .reset => false

/-- The arbiter may make an entry: a flag is set and no handler executes (60 R204). -/
def canEnter (s : State) : Bool := !s.arb.inService && pending s != 0

/-- The sequencer may make a transfer (41 R159). -/
def canTransfer (s : State) : Bool := s.ser.phase == .xfer

/-- The tick source is weakly fair; it may always step, since it "runs from reset and is never stopped"
(70 R241, D14). -/
def TickSourceFair (inputs : Nat → Input) (run : Nat → State) : Prop :=
  WeaklyFair (fun _ => true) raisesTick inputs run

/-- The settle timer is weakly fair; it may step while settling (70 R241, D18). -/
def SettleTimerFair (inputs : Nat → Input) (run : Nat → State) : Prop :=
  WeaklyFair settling (fun m => m == .settleDone) inputs run

/-- The arbiter is weakly fair: "an entry happens whenever a flag is set and no handler runs" (D14). DEDUCED,
log 34. -/
def ArbiterFair (inputs : Nat → Input) (run : Nat → State) : Prop :=
  WeaklyFair canEnter (fun m => m == .entry) inputs run

/-- The sequencer is weakly fair: a transfer that is enabled is made (41 R159). DEDUCED, log 34. -/
def SequencerFair (inputs : Nat → Input) (run : Nat → State) : Prop :=
  WeaklyFair canTransfer (fun m => m == .transfer) inputs run

end Sys2Proof.Machine
end

