-- ==== Sys2Proof/Safety.lean ====
section
/-! DEFINITION. The terms claims are made in: the invariants of spec/40_ramp_engine.md R137 and
spec/10_state.md R34, what the serializer keeps of spec/41_eeprom_serializer.md R160, quiescence
(spec/70_reset_and_hazards.md R251), and runs of the pieces that finish a command or a ramp. -/

namespace Sys2Proof.Machine

/-- The ramp engine's invariants (40 R137 (b), (d), (e), (f)); (a) is the type of the tag. -/
structure EngineInv (e : Engine) : Prop where
  idle_count : e.tag = .idle → e.cnt = 0
  holding_converged : e.tag = .holding → e.cur = e.tgt
  fading_count : e.tag = .fading → e.cnt.toNat ≤ e.fade.toNat
  holding_count : e.tag = .holding → e.cnt.toNat ≤ e.hold.toNat
  hold_scaled : e.hold.toNat % 10 = 0 ∧ e.hold.toNat ≤ 655350

/-- The serializer in the middle of a command: what is sent and what is left make up the request, and all of it
is in range (41 R158, R160, R165). -/
structure SerializerInv (q : Serializer) : Prop where
  request : q.phase ≠ .idle → q.p.toNat + q.n.toNat = q.buf.length ∧ q.buf.length ≤ Config.cap
  in_range : q.phase ≠ .idle → q.a.toNat + q.n.toNat ≤ Config.cap
  one_byte : q.phase ≠ .idle → q.single = true → q.buf.length = 1

/-- The command port: ready iff no command is in progress (10 R30), and only one is (30 R91). -/
structure PortInv (s : State) : Prop where
  ready_iff : s.port.cmdReady = true ↔ s.ser.phase = .idle ∧ s.port.immWait = none
  one_command : s.ser.phase ≠ .idle → s.port.immWait = none
  /-- Between the phases of a two-phase `SetImmediate` the engine stays idle (40 R122). -/
  wait_idle : s.port.immWait ≠ none → s.engine.tag = .idle

/-- The device: memory in canonical form, a page that exists, busy while a settle runs (10 R39, R42). -/
structure DeviceInv (s : State) : Prop where
  mem_wf : s.dev.mem.wf = true
  page_exists : s.dev.page < 512
  settle_busy : s.ser.phase = .settle → s.dev.busy = true

/-- What every reachable state satisfies. -/
structure Inv (s : State) : Prop where
  engine : EngineInv s.engine
  /-- `out[i] = cur[i]` (10 R34, 40 R137 (c)). -/
  out_cur : s.out = s.engine.cur
  /-- No handler executes between two steps (10 R32). -/
  no_service : s.arb.inService = false
  serializer : SerializerInv s.ser
  port : PortInv s
  device : DeviceInv s

/-- A quiescent state (70 R251). -/
def quiescent (s : State) : Bool :=
  s.engine.tag == .idle && s.ser.phase == .idle && s.port.cmdReady && pending s == 0

/-- An observation of a transport transaction (00 R16). -/
def Observation.isTransaction : Observation → Bool
  | .devicePresent _ => true
  | .get _ _ => true
  | .getBuffer _ _ _ => true
  | .send _ _ => true
  | .sendBuffer _ _ => true
  | .duty _ _ => false
  | .settled => false
  | .response _ _ => false

/-- `n` ticks in a row with nothing in between (30 R105). -/
def execTicks : Nat → State → Host.Outcome State Fault Refusal
  | 0, s => .next s
  | n + 1, s => andThen (exec .onTick s) (execTicks n)

/-- Run a list of moves, stopping at the first fault or refusal. -/
def runMoves : List Move → State → Host.Outcome State Fault Refusal
  | [], s => .next s
  | m :: rest, s => andThen (runMove m s) (runMoves rest)

/-- `n` transactions with their settles, then the completing transfer (41 R159). -/
def writeMoves : Nat → List Move
  | 0 => [.transfer]
  | n + 1 => .transfer :: .settleDone :: writeMoves n

/-- The number of pages a range of `n ≥ 1` bytes at `a` touches (41 R160). -/
def pagesTouched (a n : Nat) : Nat := (a + n - 1) / Config.page - a / Config.page + 1

/-- The transactions of a `WriteBuffer` in the closed form of 41 R160: `k0` bytes up to the page boundary, full
pages, the remainder, each as (address, bytes). -/
def closedForm (a : Nat) (bytes : List Byte) : List (Nat × List Byte) :=
  let k0 := if a % Config.page = 0 then 0 else min (Config.page - a % Config.page) bytes.length
  let m := bytes.length - k0
  let full := m / Config.page
  let r := m % Config.page
  (if k0 = 0 then [] else [(a, bytes.take k0)]) ++
    (List.range full).map (fun q =>
      (a + k0 + Config.page * q, (bytes.drop (k0 + Config.page * q)).take Config.page)) ++
    (if r = 0 then [] else [(a + k0 + Config.page * full, bytes.drop (k0 + Config.page * full))])

/-- The distance `|t - c|` of one channel (40 R134). -/
def distance (c t : Byte) : Nat := max (c.toNat - t.toNat) (t.toNat - c.toNat)

/-- `D = max(D_1, D_2, D_3, D_4)` (40 R134). -/
def maxDistance (c t : Duties) : Nat :=
  max (max (distance c.ch1 t.ch1) (distance c.ch2 t.ch2)) (max (distance c.ch3 t.ch3) (distance c.ch4 t.ch4))

/-- The operations of the ramp engine (40 R120, 30 R99: opcodes `0x0_`, and the tick). -/
def isRampOp : Instr → Bool
  | .setImmediate _ _ _ _ => true
  | .beginRamp _ _ _ _ _ _ => true
  | .isBusy => true
  | .onTick => true
  | .probe => false
  | .capacity => false
  | .readByte _ => false
  | .readBuffer _ _ => false
  | .writeByte _ _ => false
  | .writeBuffer _ _ => false
  | .sensorHandler => false
  | .rxHandler => false

/-- The operations of the serializer (41 R150, 30 R99: opcodes `0x1_`). -/
def isSerializerOp : Instr → Bool
  | .probe => true
  | .capacity => true
  | .readByte _ => true
  | .readBuffer _ _ => true
  | .writeByte _ _ => true
  | .writeBuffer _ _ => true
  | .setImmediate _ _ _ _ => false
  | .beginRamp _ _ _ _ _ _ => false
  | .isBusy => false
  | .onTick => false
  | .sensorHandler => false
  | .rxHandler => false

/-- The moves of the ramp engine's side: its event source, the arbiter, the phase B of `SetImmediate` (40 R120, R122,
60 R204). -/
def isRampMove : Move → Bool
  | .raise _ => true
  | .entry => true
  | .applyImmediate => true
  | .host => false
  | .transfer => false
  | .settleDone => false
  | .deviceDone => false
  | .setPresent _ => false
  | .reset => false

/-- The moves of the serializer's side: the sequencer, the settle timer, the device (41 R159, 42 R192). -/
def isSerializerMove : Move → Bool
  | .transfer => true
  | .settleDone => true
  | .deviceDone => true
  | .setPresent _ => true
  | .raise _ => false
  | .entry => false
  | .applyImmediate => false
  | .host => false
  | .reset => false

/-- What the duty calls of a piece of history, newest first, make of the outputs (42 R188). -/
def replayDuties : List Observation → Duties → Duties
  | [], d => d
  | .duty c v :: rest, d => setDuty (replayDuties rest d) c v
  | _ :: rest, d => replayDuties rest d

/-- Two states that differ at most in the registers that are dead in `Idle` (40 R138): the same tag and current
duties, the same everything outside the engine, and the same engine unless it is idle. -/
structure IdleAlike (s s' : State) : Prop where
  outside : s' = { s with engine := s'.engine }
  tag : s'.engine.tag = s.engine.tag
  cur : s'.engine.cur = s.engine.cur
  live : s.engine.tag ≠ .idle → s'.engine = s.engine

/-- Two outcomes of the same kind: related next states, the same fault, the same refusal. -/
def OutcomesAlike (R : State → State → Prop) :
    Host.Outcome State Fault Refusal → Host.Outcome State Fault Refusal → Prop
  | .next t, .next t' => R t t'
  | .fault f, .fault f' => f = f'
  | .refused r, .refused r' => r = r'
  | _, _ => False

/-- The device's write cycle is over whenever no settle runs. Only a reset in the middle of a settle breaks it
(70 R233, R234). -/
def CycleCovered (s : State) : Prop := s.dev.busy = true → s.ser.phase = .settle

end Sys2Proof.Machine
end

