-- ==== Sys2Proof/Certificates/Slice0/Obligations.lean ====
section
/-! DEFINITION. The statements for the provers. Each docstring names the rule of the spec it formalises; where it
rests on a choice of the model it names the log entry. -/

open Sys2Proof Sys2Proof.Machine

/-! ### Encoding -/

/-- Decoding the encoding of a well-formed instruction gives it back, whatever waits behind it on `wdata`, and
leaves exactly what waits (30 R92, R94, R95, R99, R102). -/
def Obligations.DecodeEncodeRoundTrip : Prop :=
  ∀ (i : Instr) (more : List Byte), i.WellFormed →
    (∃ left, decode ((encode i).followedBy more) = .ok (i, left)) ∧
    (∀ w stream, encode i = .command w stream → decode (.command w (stream ++ more)) = .ok (i, more))

/-- Each command word has one meaning: what decodes is well formed, and encoding it gives back the word and the
payload taken from the stream (30 R92, R99, R103). -/
def Obligations.EncodeDecodedCommand : Prop :=
  ∀ (w : CmdWord) (stream left : List Byte) (i : Instr), decode (.command w stream) = .ok (i, left) →
    i.WellFormed ∧ ∃ payload, encode i = .command w payload ∧ payload ++ left = stream

/-- No word is hit by two rows of the opcode map (30 R99). -/
def Obligations.OpcodeRowsDisjoint : Prop :=
  opcodeMap.Pairwise fun r q => ∀ w : CmdWord, ¬(r.hits w = true ∧ q.hits w = true)

/-- The host's move with a word that no row hits is refused, by the name of what is reserved in it (30 R103). -/
def Obligations.ReservedWordsRefused : Prop :=
  ∀ (s : State) (c : HostCommand) (rest : List HostCommand) (moves : List Move),
    s.schedule = .host :: moves → s.hostQueue = c :: rest → s.port.cmdReady = true →
    (∀ r ∈ opcodeMap, r.hits c.word = false) →
    step s = .refused (if definedOpcode (opcodeField c.word) then .reservedField else .reservedOpcode)

/-- A `WriteBuffer` word whose announced payload is not all on `wdata` is refused by name. The spec states no effect
for a payload that never arrives (30 R95, R96): the refusal is the model's choice, log 16. -/
def Obligations.ShortPayloadRefused : Prop :=
  ∀ (a n : BitVec 16) (payload : List Byte) (s : State) (rest : List HostCommand) (moves : List Move),
    s.schedule = .host :: moves → s.hostQueue = ⟨wordM 0x15 a n 0, payload⟩ :: rest → s.port.cmdReady = true →
    s.port.wdata.length + payload.length < n.toNat →
    step s = .refused .payloadShort

/-- Words of 30 R100, and the `WriteBuffer` word of program P3 in spec/95 with one surplus byte behind its payload,
decode to the instructions they stand for; the vector with all three lines selects the tick, by the priority of
60 R204. That the surplus byte stays on `wdata` (log 16) and that a vector of several lines is decoded by priority
(log 19) are the model's choices. -/
def Obligations.WordsOfTheSpecDecode : Prop :=
  decode (.command 0x01FF80000700000000 []) = .ok (.setImmediate 255 128 0 7, []) ∧
  decode (.command 0x020301000200020001 []) = .ok (.beginRamp 3 1 0 2 2 1, []) ∧
  decode (.command 0x030000000000000000 []) = .ok (.isBusy, []) ∧
  decode (.command 0x127FFF000000000000 []) = .ok (.readByte 0x7FFF, []) ∧
  decode (.command 0x130064009600000000 []) = .ok (.readBuffer 100 150, []) ∧
  decode (.command 0x147FFF0000A5000000 []) = .ok (.writeByte 0x7FFF 0xA5, []) ∧
  decode (.command 0x15003E000300000000 [1, 2, 3, 4]) = .ok (.writeBuffer 62 [1, 2, 3], [4]) ∧
  decode (.event 7) = .ok (.onTick, [])

/-! ### The step -/

/-- When the host is next to move, the port is ready and its next command decodes to `i`, the step is `exec i` on
the state with the move and the command consumed and the payload taken from `wdata` (30 R91, R96). That bytes left on
`wdata` stand ahead of the next command's own, and that surplus bytes stay there, is the model's choice, log 16. -/
def Obligations.StepRunsIssuedCommand : Prop :=
  ∀ (s : State) (c : HostCommand) (rest : List HostCommand) (moves : List Move) (i : Instr) (left : List Byte),
    s.schedule = .host :: moves → s.hostQueue = c :: rest → s.port.cmdReady = true →
    decode (.command c.word (s.port.wdata ++ c.payload)) = .ok (i, left) →
    step s =
      exec i { s with schedule := moves, hostQueue := rest, port := { s.port with wdata := left } }

/-- One entry of the arbiter: it clears the flag of the first pending event in the order PWM tick, sensor, byte
received, runs that handler with `in_service` true and leaves the other flags; with no flag pending, or while a
handler runs, there is no entry (60 R204, R208). That the move is then used up without effect is the model's choice,
log 2; that a flag left over from an earlier entry needs no new event is PRESUMED, log 20 (60 R205). -/
def Obligations.EntryServesOneEventByPriority : Prop :=
  ∀ (s : State) (moves : List Move), s.schedule = .entry :: moves →
    (s.arb.inService = false → s.arb.pendPwm = true →
      step s = exec .onTick
        { s with schedule := moves, arb := { s.arb with pendPwm := false, inService := true } }) ∧
    (s.arb.inService = false → s.arb.pendPwm = false → s.arb.pendSensor = true →
      step s = exec .sensorHandler
        { s with schedule := moves, arb := { s.arb with pendSensor := false, inService := true } }) ∧
    (s.arb.inService = false → s.arb.pendPwm = false → s.arb.pendSensor = false → s.arb.pendRx = true →
      step s = exec .rxHandler
        { s with schedule := moves, arb := { s.arb with pendRx := false, inService := true } }) ∧
    (s.arb.inService = true ∨ (s.arb.pendPwm = false ∧ s.arb.pendSensor = false ∧ s.arb.pendRx = false) →
      step s = .next { s with schedule := moves })

/-- Raised lines set their flags, a flag already set stays set once, and nothing else changes (60 R203, R207). -/
def Obligations.RaisedEventsMerge : Prop :=
  ∀ (s : State) (ev : EventLines) (moves : List Move), s.schedule = .raise ev :: moves →
    step s = .next
      { s with
        schedule := moves
        arb :=
          { s.arb with
            pendPwm := s.arb.pendPwm || ev.getLsbD 0
            pendSensor := s.arb.pendSensor || ev.getLsbD 1
            pendRx := s.arb.pendRx || ev.getLsbD 2 } }

/-- Only an enabled agent changes anything: a host that is blocked or has nothing to issue, a sequencer with
nothing to transfer, a settle timer with no settle, a device that a settle covers, an immediate apply whose tick has
not come (70 R241, 30 R91, R97). That a scheduled move is then used up without effect is the model's choice, log 2. -/
def Obligations.DisabledAgentsChangeNothing : Prop :=
  ∀ (s : State) (m : Move) (moves : List Move), s.schedule = m :: moves →
    ((m = .host ∧ (s.port.cmdReady = false ∨ s.hostQueue = [])) ∨
      (m = .transfer ∧ s.ser.phase ≠ .xfer) ∨
      (m = .settleDone ∧ s.ser.phase ≠ .settle) ∨
      (m = .deviceDone ∧ s.ser.phase = .settle) ∨
      (m = .applyImmediate ∧ ∀ w, s.port.immWait = some w → w.ticked = false)) →
    step s = .next { s with schedule := moves }

/-! ### The ramp engine -/

/-- `SetImmediate`, atomic form, in every state: the engine goes `Idle` with `cnt` 0, the four duties are current
and in effect, called in channel order, `tgt`, `fade`, `hold` and everything else are unchanged (40 R121). -/
def Obligations.SetImmediateAppliesAtOnce : Prop :=
  ∀ (d1 d2 d3 d4 : Byte) (s : State), s.setImmMode = .atomic →
    exec (.setImmediate d1 d2 d3 d4) s = .next
      { s with
        engine := { s.engine with cur := ⟨d1, d2, d3, d4⟩, tag := .idle, cnt := 0 }
        out := ⟨d1, d2, d3, d4⟩
        port := { s.port with rsp := 0, rdata := [] }
        history :=
          .response 0 [] :: .duty .ch4 d4 :: .duty .ch3 d3 :: .duty .ch2 d2 :: .duty .ch1 d1 :: s.history }

/-- `SetImmediate`, two-phase form: phase A cancels the ramp, makes the port not ready and touches no duty; at
least one tick later phase B ends in exactly the state of the atomic form, history included; before any tick
phase B does nothing (40 R122). Where the values wait between the phases is the model's, log 18. -/
def Obligations.SetImmediateFormsAgree : Prop :=
  ∀ (d1 d2 d3 d4 : Byte) (s : State) (n : Nat),
    s.setImmMode = .twoPhase → s.port.cmdReady = true → s.port.immWait = none → s.arb.inService = false →
    ∃ a u v, exec (.setImmediate d1 d2 d3 d4) s = .next a ∧
      a.engine = { s.engine with tag := .idle, cnt := 0 } ∧ a.out = s.out ∧ a.port.cmdReady = false ∧
      a.history = s.history ∧
      runMove .applyImmediate a = .next a ∧
      execTicks (n + 1) a = .next u ∧ u.engine = a.engine ∧ u.out = s.out ∧ u.port.cmdReady = false ∧
      runMove .applyImmediate u = .next v ∧
      exec (.setImmediate d1 d2 d3 d4) { s with setImmMode := .atomic } = .next { v with setImmMode := .atomic }

/-- A `BeginRamp` that finds `Idle` is accepted: targets, `fade`, `hold` scaled by ten, `cnt` and the tag are
written in one step, `cur` and `out` are not (40 R123, 30 R94). -/
def Obligations.BeginRampAcceptedInIdle : Prop :=
  ∀ (t1 t2 t3 t4 : Byte) (f h : BitVec 16) (s : State), s.engine.tag = .idle →
    exec (.beginRamp t1 t2 t3 t4 f h) s = .next
      { s with
        engine :=
          { cur := s.engine.cur, tgt := ⟨t1, t2, t3, t4⟩, tag := .fading, cnt := BitVec.ofNat 20 f.toNat,
            fade := f, hold := BitVec.ofNat 20 (10 * h.toNat) }
        port := { s.port with rsp := 0, rdata := [] }
        history := .response 0 [] :: s.history }

/-- A `BeginRamp` while the engine is busy is dropped: the engine, the outputs and all else are unchanged, and the
response is the same (40 R123, 30 R98). -/
def Obligations.BeginRampDroppedWhileBusy : Prop :=
  ∀ (t1 t2 t3 t4 : Byte) (f h : BitVec 16) (s : State), s.engine.tag ≠ .idle →
    exec (.beginRamp t1 t2 t3 t4 f h) s = .next
      { s with port := { s.port with rsp := 0, rdata := [] }, history := .response 0 [] :: s.history }

/-- `IsBusy` answers whether the tag is not `Idle` and writes no state but the response (40 R124, 10 R29). -/
def Obligations.IsBusyAnswersTag : Prop :=
  ∀ s : State,
    exec .isBusy s = .next
      { s with
        port := { s.port with rsp := if s.engine.tag = .idle then 0 else 1, rdata := [] }
        history := .response (if s.engine.tag = .idle then 0 else 1) [] :: s.history }

/-- The waiting branch of a tick: in `Idle`, or with `cnt ≠ 0`, no duty is mutated and only `cnt` may change, by one
(40 R129, R130). Around the body the handler ends (60 R211) and a waiting two-phase `SetImmediate` is told that a tick
has run (40 R122); that it is told by the bit `ticked` is the model's choice, log 18. -/
def Obligations.OnTickWaits : Prop :=
  ∀ s : State, (s.engine.tag = .idle ∨ s.engine.cnt ≠ 0) →
    exec .onTick s = .next
      { s with
        engine := { s.engine with cnt := if s.engine.cnt = 0 then 0 else s.engine.cnt - 1 }
        arb := { s.arb with inService := false }
        port := { s.port with immWait := s.port.immWait.map fun w => { w with ticked := true } } }

/-- The end of the hold, as a whole step of the handler: the tag becomes `Idle`, every other engine register, the
outputs and the history keep their values (40 R128). Around the body the handler ends (60 R211) and a waiting two-phase
`SetImmediate` is told that a tick has run (40 R122); that it is told by the bit `ticked` is the model's choice,
log 18. -/
def Obligations.OnTickEndsHold : Prop :=
  ∀ s : State, s.engine.tag = .holding → s.engine.cnt = 0 →
    exec .onTick s = .next
      { s with
        engine := { s.engine with tag := .idle }
        arb := { s.arb with inService := false }
        port := { s.port with immWait := s.port.immWait.map fun w => { w with ticked := true } } }

/-- The end of the hold, in the words of the rule, when the arbiter serves the tick: the tag becomes `Idle`, no duty
call is made, `cur`, `tgt`, `out`, `fade`, `hold` keep their values and `cnt` stays 0 (40 R128). -/
def Obligations.HoldEndsWithoutADutyCall : Prop :=
  ∀ (s : State) (moves : List Move), s.schedule = .entry :: moves → s.arb.inService = false →
    s.arb.pendPwm = true → s.engine.tag = .holding → s.engine.cnt = 0 →
    ∃ t, step s = .next t ∧ t.engine.tag = .idle ∧ t.history = s.history ∧ t.engine.cur = s.engine.cur ∧
      t.engine.tgt = s.engine.tgt ∧ t.out = s.out ∧ t.engine.fade = s.engine.fade ∧
      t.engine.hold = s.engine.hold ∧ t.engine.cnt = 0

/-- The fade step: each channel moves one unit toward its target, unsigned; all four are emitted in channel
order; if all are then at target the engine holds with the hold count, otherwise it reloads the fade count; the
decrement comes last (40 R125, R126, R127, R130). Nothing outside the engine's `cur`, `cnt`, tag, the outputs and the
history changes but the handler's end (60 R211) and what tells a waiting two-phase `SetImmediate` that a tick has run
(40 R122); that this is the bit `ticked` is the model's choice, log 18. -/
def Obligations.OnTickFadeStep : Prop :=
  ∀ s : State, s.engine.tag = .fading → s.engine.cnt = 0 →
    ∃ t, exec .onTick s = .next t ∧
      (∀ c : Channel,
        ((duty s.engine.cur c).toNat < (duty s.engine.tgt c).toNat →
          (duty t.engine.cur c).toNat = (duty s.engine.cur c).toNat + 1) ∧
        ((duty s.engine.tgt c).toNat < (duty s.engine.cur c).toNat →
          (duty t.engine.cur c).toNat = (duty s.engine.cur c).toNat - 1) ∧
        (duty s.engine.cur c = duty s.engine.tgt c → duty t.engine.cur c = duty s.engine.cur c)) ∧
      (t.engine.cur = s.engine.tgt →
        t.engine.tag = .holding ∧ t.engine.cnt.toNat = s.engine.hold.toNat - 1) ∧
      (t.engine.cur ≠ s.engine.tgt →
        t.engine.tag = .fading ∧ t.engine.cnt.toNat = s.engine.fade.toNat - 1) ∧
      t.engine.tgt = s.engine.tgt ∧ t.engine.fade = s.engine.fade ∧ t.engine.hold = s.engine.hold ∧
      t =
        { s with
          engine := t.engine
          out := t.engine.cur
          arb := { s.arb with inService := false }
          port := { s.port with immWait := s.port.immWait.map fun w => { w with ticked := true } }
          history :=
            .duty .ch4 t.engine.cur.ch4 :: .duty .ch3 t.engine.cur.ch3 :: .duty .ch2 t.engine.cur.ch2 ::
              .duty .ch1 t.engine.cur.ch1 :: s.history }

/-- Every tick completes, and on it each channel's new value lies between its prior value and its target, both
ends included, and is at most one unit away from the prior value (40 R136). -/
def Obligations.ChannelsMoveMonotonically : Prop :=
  ∀ s : State, ∃ t, exec .onTick s = .next t ∧ t.engine.tgt = s.engine.tgt ∧
    ∀ c : Channel,
      let old := (duty s.engine.cur c).toNat
      let new := (duty t.engine.cur c).toNat
      let target := (duty s.engine.tgt c).toNat
      min old target ≤ new ∧ new ≤ max old target ∧ new ≤ old + 1 ∧ old ≤ new + 1 ∧
        max (new - target) (target - new) ≤ max (old - target) (target - old)

/-- None of the hardware's arithmetic wraps: duty moves (40 R133 (a), (b)), the counter's decrement (c), the scaled hold
count (d), the widened counts, the serializer's pointer sums (41 R165). -/
def Obligations.ArithmeticNeverWraps : Prop :=
  (∀ c t : Byte, (c.toNat < t.toNat → (moveToward c t).toNat = c.toNat + 1) ∧
    (t.toNat < c.toNat → (moveToward c t).toNat + 1 = c.toNat) ∧ (c = t → moveToward c t = c)) ∧
  (∀ s : State, (s.engine.cnt ≠ 0 → (decrementCount s).engine.cnt.toNat + 1 = s.engine.cnt.toNat) ∧
    (s.engine.cnt = 0 → (decrementCount s).engine.cnt = 0)) ∧
  (∀ h : BitVec 16, (scaleHold h).toNat = 10 * h.toNat ∧ (scaleHold h).toNat ≤ 655350) ∧
  (∀ f : BitVec 16, (widenFade f).toNat = f.toNat) ∧
  (∀ a n : BitVec 16, (widenAddress a + n.setWidth 17).toNat = a.toNat + n.toNat) ∧
  (∀ q : Serializer, q.a.toNat + q.n.toNat ≤ 131070 → q.p.toNat + q.n.toNat < 65536 →
    let k := chunk q.a.toNat q.n.toNat
    (advance q).a.toNat = q.a.toNat + k ∧ (advance q).p.toNat = q.p.toNat + k ∧
      (advance q).n.toNat + k = q.n.toNat)

/-- A ramp, tick by tick. From an accepted `BeginRamp` that sees only ticks, with `F = fadeTicks`,
`H = 10 * holdTicks`, `P = max(F,1)`, `D` the largest distance, `c = F + 1 + (max(D,1) - 1) * P`,
`e = c + max(H,1)`: the engine fades before tick `c`, holds from tick `c` on with `cnt = max(H,1) - 1` after it,
and is idle from tick `e` on; after tick `n` each channel has moved `min(k, D_i)` units toward its target, where
`k` counts the fade steps on ticks `F + 1 + (k - 1) * P` (40 R134, R135, R136). -/
def Obligations.RampRunsItsCourse : Prop :=
  ∀ (t1 t2 t3 t4 : Byte) (f h : BitVec 16) (s : State), s.engine.tag = .idle →
    let tgt : Duties := ⟨t1, t2, t3, t4⟩
    let p := max f.toNat 1
    let hold := max (10 * h.toNat) 1
    let c := f.toNat + 1 + (max (maxDistance s.engine.cur tgt) 1 - 1) * p
    ∃ s0, exec (.beginRamp t1 t2 t3 t4 f h) s = .next s0 ∧
      ∀ n, ∃ u, execTicks n s0 = .next u ∧
        (n < c → u.engine.tag = .fading) ∧
        (c ≤ n → n < c + hold → u.engine.tag = .holding ∧ u.engine.cnt.toNat = hold - 1 - (n - c)) ∧
        (c + hold ≤ n → u.engine.tag = .idle) ∧
        ∀ ch : Channel,
          let k := if n ≤ f.toNat then 0 else (n - f.toNat - 1) / p + 1
          let start := (duty s.engine.cur ch).toNat
          let goal := (duty tgt ch).toNat
          (duty u.engine.cur ch).toNat =
            if start ≤ goal then min (start + k) goal else max (start - k) goal

/-- The engine's tag changes only as the transition table says, row by row: out of `Idle` only to `Fading`, by a
`BeginRamp` the host issued; from `Fading` to `Holding` only by a tick the arbiter served with `cnt = 0` and all four
duties at target after the moves; from `Holding` never to `Fading`, and to `Idle` only by a tick the arbiter served with
`cnt = 0`, by a `SetImmediate` the host issued or by reset; from `Fading` to `Idle` only by the last two (40 R132,
R138). -/
def Obligations.TagChangesOnlyByTheTable : Prop :=
  ∀ s t : State, step s = .next t →
    (s.engine.tag = .idle → t.engine.tag ≠ .idle →
      t.engine.tag = .fading ∧ ∃ moves c rest t1 t2 t3 t4 f h left,
        s.schedule = .host :: moves ∧ s.hostQueue = c :: rest ∧
        decode (portInput c s) = .ok (.beginRamp t1 t2 t3 t4 f h, left)) ∧
    (s.engine.tag = .fading → t.engine.tag = .holding →
      (∃ moves, s.schedule = .entry :: moves) ∧ s.arb.inService = false ∧ s.arb.pendPwm = true ∧
        s.engine.cnt = 0 ∧ moveAll s.engine.cur s.engine.tgt = s.engine.tgt ∧ t.engine.cur = s.engine.tgt) ∧
    (s.engine.tag = .holding → t.engine.tag ≠ .fading) ∧
    (s.engine.tag = .holding → t.engine.tag = .idle →
      ((∃ moves, s.schedule = .entry :: moves) ∧ s.arb.inService = false ∧ s.arb.pendPwm = true ∧
        s.engine.cnt = 0) ∨
      (∃ moves, s.schedule = .reset :: moves) ∨
      ∃ moves c rest d1 d2 d3 d4 left,
        s.schedule = .host :: moves ∧ s.hostQueue = c :: rest ∧
        decode (portInput c s) = .ok (.setImmediate d1 d2 d3 d4, left)) ∧
    (s.engine.tag = .fading → t.engine.tag = .idle →
      (∃ moves, s.schedule = .reset :: moves) ∨
      ∃ moves c rest d1 d2 d3 d4 left,
        s.schedule = .host :: moves ∧ s.hostQueue = c :: rest ∧
        decode (portInput c s) = .ok (.setImmediate d1 d2 d3 d4, left))

/-- In a run whose tick source and arbiter are weakly fair, every ramp ends: from whatever point of the run the engine
is `Idle` at some later or the same point (70 R241, 40 R120). The fairness of the arbiter is DEDUCED, log 34. -/
def Obligations.RampEndsInFairRuns : Prop :=
  ∀ (inputs : Nat → Input) (run : Nat → State) (n : Nat), IsRun inputs run → TickSourceFair inputs run →
    ArbiterFair inputs run → Inv (run n) →
    ∃ m, n ≤ m ∧ (run m).engine.tag = .idle

/-- The values of `tgt`, `fade`, `hold` and `cnt` in `Idle` can affect nothing observable: two states that differ
only in them take steps of the same kind to states that again differ only in them, so the outputs, the responses
and the whole history of every run agree (40 R138). -/
def Obligations.IdleRegistersUnobservable : Prop :=
  ∀ s s' : State, IdleAlike s s' → OutcomesAlike IdleAlike (step s) (step s')

/-- A tick and a `SetImmediate` in either order leave the same engine, the same outputs and `busy` false: the
immediate values win the race (40 R121, 70 R242). -/
def Obligations.SetImmediateWinsTheRace : Prop :=
  ∀ (d1 d2 d3 d4 : Byte) (s : State), s.setImmMode = .atomic →
    ∃ u v w x, exec .onTick s = .next u ∧ exec (.setImmediate d1 d2 d3 d4) u = .next v ∧
      exec (.setImmediate d1 d2 d3 d4) s = .next w ∧ exec .onTick w = .next x ∧
      v.engine = x.engine ∧ v.out = ⟨d1, d2, d3, d4⟩ ∧ x.out = ⟨d1, d2, d3, d4⟩ ∧
      v.engine.cur = ⟨d1, d2, d3, d4⟩ ∧ busy v = false ∧ busy x = false

/-- A `SetImmediate` followed at once by a `BeginRamp` is always accepted, and the ramp starts from the immediate
values (70 R244, 40 R121, R123). -/
def Obligations.RampAfterSetImmediateAccepted : Prop :=
  ∀ (d1 d2 d3 d4 t1 t2 t3 t4 : Byte) (f h : BitVec 16) (s : State), s.setImmMode = .atomic →
    ∃ u v, exec (.setImmediate d1 d2 d3 d4) s = .next u ∧ exec (.beginRamp t1 t2 t3 t4 f h) u = .next v ∧
      v.engine.tag = .fading ∧ v.engine.cur = ⟨d1, d2, d3, d4⟩ ∧ v.engine.tgt = ⟨t1, t2, t3, t4⟩ ∧
      v.out = ⟨d1, d2, d3, d4⟩ ∧ v.engine.fade = f ∧ v.engine.cnt.toNat = f.toNat ∧
      v.engine.hold.toNat = 10 * h.toNat

/-- The outputs change only by duty calls: whatever a step adds to the history, replaying its duty calls on the old
outputs gives the new outputs, and the history is only ever added to (10 R33, 42 R188, R194). -/
def Obligations.OutputsFollowDutyCalls : Prop :=
  ∀ s t : State, step s = .next t → ∃ new, t.history = new ++ s.history ∧ t.out = replayDuties new s.out

/-! ### The opaque handlers -/

/-- `SensorHandler` and `RxHandler` change no state of this hardware; their step ends the handler (60 R206,
R211). -/
def Obligations.OpaqueHandlersChangeNothing : Prop :=
  ∀ s : State,
    exec .sensorHandler s = .next { s with arb := { s.arb with inService := false } } ∧
    exec .rxHandler s = .next { s with arb := { s.arb with inService := false } }

/-! ### The serializer's queries and reads -/

/-- `Probe`, with no write cycle in progress, is one `devicePresent` and answers `present`; it writes nothing else
(41 R151, 42 R185). -/
def Obligations.ProbeAnswersPresence : Prop :=
  ∀ s : State, s.dev.busy = false →
    exec .probe s = .next
      { s with
        port := { s.port with rsp := if s.dev.present then 1 else 0, rdata := [] }
        history :=
          .response (if s.dev.present then 1 else 0) [] :: .devicePresent s.dev.present :: s.history }

/-- `Capacity` answers 32768 in every state, with no transaction (41 R152). -/
def Obligations.CapacityAnswersConstant : Prop :=
  ∀ s : State,
    exec .capacity s = .next
      { s with
        port := { s.port with rsp := 0x8000, rdata := [] }
        history := .response 0x8000 [] :: s.history }

/-- `ReadByte` of an address below 32768 with no write cycle in progress is one `get`: a present device answers
the byte at the address, an absent one a free byte; memory and everything else are unchanged (41 R153, R155,
42 R181). The free byte and its draw are the model's, log 10. -/
def Obligations.ReadByteAnswersTheByte : Prop :=
  ∀ (a : BitVec 16) (s : State), a.toNat < 32768 → s.dev.busy = false →
    (s.dev.present = true →
      exec (.readByte a) s = .next
        { s with
          port := { s.port with rsp := (Memory.read s.dev.mem a.toNat).setWidth 16, rdata := [] }
          history :=
            .response ((Memory.read s.dev.mem a.toNat).setWidth 16) [] ::
              .get a.toNat (Memory.read s.dev.mem a.toNat) :: s.history }) ∧
    (s.dev.present = false →
      ∃ v : Byte, exec (.readByte a) s = .next
        { s with
          port := { s.port with rsp := v.setWidth 16, rdata := [] }
          history := .response (v.setWidth 16) [] :: .get a.toNat v :: s.history
          draws := s.draws + 1 })

/-- `ReadBuffer` in range, or of length 0 at any address, with no write cycle in progress is one `getBuffer` and
answers `length` bytes on `rdata`; from a present device byte `k` is the contents at `address + k`; memory, the
device and everything else are unchanged (41 R154, R155, 42 R182, 20 R66). Free bytes of an absent device: log 10. -/
def Obligations.ReadBufferAnswersTheBytes : Prop :=
  ∀ (a n : BitVec 16) (s : State), (n.toNat = 0 ∨ a.toNat + n.toNat ≤ 32768) → s.dev.busy = false →
    ∃ bytes : List Byte, bytes.length = n.toNat ∧
      (s.dev.present = true → ∀ k, k < n.toNat → bytes[k]? = some (Memory.read s.dev.mem (a.toNat + k))) ∧
      exec (.readBuffer a n) s = .next
        { s with
          port := { s.port with rsp := 0, rdata := bytes }
          history := .response 0 bytes :: .getBuffer a.toNat n.toNat bytes :: s.history
          draws := if s.dev.present then s.draws else s.draws + n.toNat }

/-- An access that touches an address at or above 32768 is refused, in every state, by all four memory commands:
the model's stop for what the spec leaves undefined (20 R66, 93 U1). -/
def Obligations.OutOfRangeRefused : Prop :=
  ∀ (a n : BitVec 16) (v : Byte) (bytes : List Byte) (s : State),
    (32768 ≤ a.toNat → exec (.readByte a) s = .refused .outOfRange ∧
      exec (.writeByte a v) s = .refused .outOfRange) ∧
    (n.toNat ≠ 0 → 32768 < a.toNat + n.toNat → exec (.readBuffer a n) s = .refused .outOfRange) ∧
    (bytes ≠ [] → 32768 < a.toNat + bytes.length →
      exec (.writeBuffer a bytes) s = .refused .outOfRange)

/-- A transport transaction that finds the device in its write cycle has no step of the device: the model stops
with a named fault (42 R186, 93 U6, log 14). -/
def Obligations.BusyDeviceFaults : Prop :=
  ∀ (a n : BitVec 16) (s : State), s.dev.busy = true →
    exec .probe s = .fault .deviceBusy ∧
    (a.toNat < 32768 → exec (.readByte a) s = .fault .deviceBusy) ∧
    ((n.toNat = 0 ∨ a.toNat + n.toNat ≤ 32768) → exec (.readBuffer a n) s = .fault .deviceBusy) ∧
    (s.ser.phase = .xfer → s.ser.n ≠ 0 → s.ser.a.toNat < 32768 → nextBytes s.ser ≠ [] →
      runMove .transfer s = .fault .deviceBusy)

/-! ### Writes -/

/-- `WriteByte` below 32768 makes the port not ready and starts the sequencer with the one byte; nothing reaches
the device yet (41 R156, R159). That the byte's call will be `send` is held in a bit of the model's, log 31. -/
def Obligations.WriteByteStartsSequencer : Prop :=
  ∀ (a : BitVec 16) (v : Byte) (s : State), a.toNat < 32768 →
    exec (.writeByte a v) s = .next
      { s with
        port := { s.port with cmdReady := false }
        ser :=
          { phase := .xfer, a := BitVec.ofNat 17 a.toNat, p := 0, n := 1, buf := [v], single := true } }

/-- `WriteBuffer` of at least one byte, in range, makes the port not ready and starts the sequencer:
`ser_a, ser_p, ser_n <- address, 0, length` (41 R159). -/
def Obligations.WriteBufferStartsSequencer : Prop :=
  ∀ (a : BitVec 16) (bytes : List Byte) (s : State), bytes ≠ [] → a.toNat + bytes.length ≤ 32768 →
    exec (.writeBuffer a bytes) s = .next
      { s with
        port := { s.port with cmdReady := false }
        ser :=
          { phase := .xfer, a := BitVec.ofNat 17 a.toNat, p := 0, n := BitVec.ofNat 16 bytes.length,
            buf := bytes, single := false } }

/-- "`WriteBuffer` with a length of 0 issues zero transactions", takes no settle and completes in the step in which
it is issued, for any address: the response is all that happens, `ser_phase` and `cmd_ready` stay, and no byte is
taken from `wdata` (41 R161, 30 R95). -/
def Obligations.EmptyWriteBufferCompletesAtOnce : Prop :=
  ∀ (a : BitVec 16) (s : State),
    exec (.writeBuffer a []) s = .next
      { s with port := { s.port with rsp := 0, rdata := [] }, history := .response 0 [] :: s.history } ∧
    (∀ stream, decode (.command (wordM 0x15 a 0 0) stream) = .ok (.writeBuffer a [], stream))

/-- One transfer of a `WriteBuffer` to a present device: one `sendBuffer` of `k = min(64 - (ser_a mod 64), ser_n)`
bytes of the request, never across a page boundary; the device stores them in ascending order and nothing else
changes in memory; the pointer, the offset and the count move by `k`, the settle begins, and the device is busy with the
page of the transaction (41 R157, R159, R163, 42 R184). That the page is remembered in a field is the model's, log 12. -/
def Obligations.TransferSendsOneChunk : Prop :=
  ∀ s : State, s.ser.phase = .xfer → s.ser.n ≠ 0 → s.ser.single = false → SerializerInv s.ser →
    s.dev.mem.wf = true → s.dev.busy = false → s.dev.present = true →
    let k := min (64 - s.ser.a.toNat % 64) s.ser.n.toNat
    let bytes := (s.ser.buf.drop s.ser.p.toNat).take k
    ∃ t, runMove .transfer s = .next t ∧ 1 ≤ k ∧ s.ser.a.toNat % 64 + k ≤ 64 ∧ bytes.length = k ∧
      t.ser.phase = .settle ∧ t.ser.a.toNat = s.ser.a.toNat + k ∧ t.ser.p.toNat = s.ser.p.toNat + k ∧
      t.ser.n.toNat + k = s.ser.n.toNat ∧ t.ser.buf = s.ser.buf ∧ t.ser.single = false ∧
      (∀ j, j < k → bytes[j]? = some (Memory.read t.dev.mem (s.ser.a.toNat + j))) ∧
      (∀ b, b < s.ser.a.toNat ∨ s.ser.a.toNat + k ≤ b → Memory.read t.dev.mem b = Memory.read s.dev.mem b) ∧
      t =
        { s with
          ser := t.ser
          dev := { mem := t.dev.mem, present := true, busy := true, page := s.ser.a.toNat / 64 }
          history := .sendBuffer s.ser.a.toNat bytes :: s.history }

/-- The settle event: the device's write cycle is over and the sequencer is ready for its next transfer; nothing
else changes (41 R159, 10 R42, 42 R192). -/
def Obligations.SettleEndsHold : Prop :=
  ∀ (s : State) (moves : List Move), s.schedule = .settleDone :: moves → s.ser.phase = .settle →
    step s = .next
      { s with
        schedule := moves
        ser := { s.ser with phase := .xfer }
        dev := { s.dev with busy := false }
        history := .settled :: s.history }

/-- With nothing left to send the transfer completes the command: `SerIdle`, port ready, response `0x0000`, no
transaction; the serializer's other registers are then unspecified and nothing else changes (41 R159, 10 R36,
R37). That they become free values, each counted as a draw, is the model's, log 4. -/
def Obligations.TransferCompletesCommand : Prop :=
  ∀ s : State, s.ser.phase = .xfer → s.ser.n = 0 →
    ∃ q : Serializer, q.phase = .idle ∧
      runMove .transfer s = .next
        { s with
          ser := q
          port := { s.port with cmdReady := true, rsp := 0, rdata := [] }
          history := .response 0 [] :: s.history
          draws := s.draws + 1 }

/-- A whole `WriteByte` to a present device: one `send`, one settle, completion; the byte is at the address, every other
byte keeps its value, and nothing else changes but the response, the history, the page the device last wrote and the
serializer's registers, which are free again (41 R156, 42 R183, R187). The page's field is the model's, log 12, and so
are the free registers, log 4. -/
def Obligations.WriteByteRunsToCompletion : Prop :=
  ∀ (a : BitVec 16) (v : Byte) (s : State), a.toNat < 32768 → s.dev.mem.wf = true → s.dev.busy = false →
    s.dev.present = true →
    ∃ t, andThen (exec (.writeByte a v) s) (runMoves (writeMoves 1)) = .next t ∧
      Memory.read t.dev.mem a.toNat = v ∧
      (∀ b, b ≠ a.toNat → Memory.read t.dev.mem b = Memory.read s.dev.mem b) ∧
      t.dev.mem.wf = true ∧ t.ser.phase = .idle ∧
      t =
        { s with
          port := { s.port with cmdReady := true, rsp := 0, rdata := [] }
          ser := t.ser
          dev := { mem := t.dev.mem, present := true, busy := false, page := a.toNat / 64 }
          history := .response 0 [] :: .settled :: .send a.toNat v :: s.history
          draws := s.draws + 1 }

/-- A whole `WriteBuffer` to a present device, with the sequencer and the settle timer alternating: it issues
exactly the transactions of the closed form of 41 R160, in order, a settle after each, one for each page touched;
byte `j` of the buffer ends at `address + j`, every other byte keeps its value, and nothing else changes but the
response, the history, the page the device last wrote and the serializer's registers, which are free again (41 R157,
R158, R160, 42 R187, 20 R62). The page's field is the model's, log 12, and so are the free registers, log 4. -/
def Obligations.WriteBufferRunsToCompletion : Prop :=
  ∀ (a : BitVec 16) (bytes : List Byte) (s : State), bytes ≠ [] → a.toNat + bytes.length ≤ 32768 →
    s.dev.mem.wf = true → s.dev.busy = false → s.dev.present = true →
    ∃ t, andThen (exec (.writeBuffer a bytes) s) (runMoves (writeMoves (pagesTouched a.toNat bytes.length))) =
        .next t ∧
      (∀ j, j < bytes.length → bytes[j]? = some (Memory.read t.dev.mem (a.toNat + j))) ∧
      (∀ b, b < a.toNat ∨ a.toNat + bytes.length ≤ b → Memory.read t.dev.mem b = Memory.read s.dev.mem b) ∧
      t.dev.mem.wf = true ∧ t.ser.phase = .idle ∧
      t =
        { s with
          port := { s.port with cmdReady := true, rsp := 0, rdata := [] }
          ser := t.ser
          dev :=
            { mem := t.dev.mem, present := true, busy := false, page := (a.toNat + bytes.length - 1) / 64 }
          history :=
            .response 0 [] ::
              ((closedForm a.toNat bytes).reverse.flatMap fun x => [.settled, .sendBuffer x.1 x.2]) ++ s.history
          draws := s.draws + 1 }

/-- A whole `WriteBuffer` behind an absent device still runs its whole transaction list with all its settles and
completes like any other; only the addressed bytes may change (41 R164, 93 U5). That each takes a free value, one draw
each, is the model's, log 11. -/
def Obligations.AbsentDeviceRunsTheWholeList : Prop :=
  ∀ (a : BitVec 16) (bytes : List Byte) (s : State), bytes ≠ [] → a.toNat + bytes.length ≤ 32768 →
    s.dev.mem.wf = true → s.dev.busy = false → s.dev.present = false →
    ∃ t, andThen (exec (.writeBuffer a bytes) s) (runMoves (writeMoves (pagesTouched a.toNat bytes.length))) =
        .next t ∧
      (∀ b, b < a.toNat ∨ a.toNat + bytes.length ≤ b → Memory.read t.dev.mem b = Memory.read s.dev.mem b) ∧
      t.dev.mem.wf = true ∧ t.ser.phase = .idle ∧
      t =
        { s with
          port := { s.port with cmdReady := true, rsp := 0, rdata := [] }
          ser := t.ser
          dev :=
            { mem := t.dev.mem, present := false, busy := false, page := (a.toNat + bytes.length - 1) / 64 }
          history :=
            .response 0 [] ::
              ((closedForm a.toNat bytes).reverse.flatMap fun x => [.settled, .sendBuffer x.1 x.2]) ++ s.history
          draws := s.draws + bytes.length + 1 }

/-- In a run whose settle timer and sequencer are weakly fair, every write command ends: from a point at which one is
in progress, the serializer is idle and the port ready at a later one; if no reset came between, the command has
answered `0x0000` there (70 R241, 41 R159). The fairness of the sequencer is DEDUCED, log 34. -/
def Obligations.WriteCompletesInFairRuns : Prop :=
  ∀ (inputs : Nat → Input) (run : Nat → State) (n : Nat), IsRun inputs run → SettleTimerFair inputs run →
    SequencerFair inputs run → Inv (run n) → (run n).ser.phase ≠ .idle →
    ∃ m, n < m ∧ (run m).ser.phase = .idle ∧ (run m).port.cmdReady = true ∧
      ((∀ k, n ≤ k → k < m → (inputs k).move ≠ .reset) →
        (run m).port.rsp = 0 ∧ (run m).port.rdata = [] ∧ ∃ older, (run m).history = .response 0 [] :: older)

/-- The closed form of a request's transactions: between 1 and 64 bytes each, none across a multiple of 64, all but
the first at a multiple of 64, contiguous and ascending from the address, together exactly the request's bytes, one
for each page touched (41 R160). -/
def Obligations.ClosedFormSplitsByPages : Prop :=
  ∀ (a : Nat) (bytes : List Byte),
    (bytes = [] → closedForm a bytes = []) ∧
    (bytes ≠ [] → (closedForm a bytes).length = pagesTouched a bytes.length) ∧
    ((closedForm a bytes).flatMap Prod.snd = bytes) ∧
    (∀ x ∈ closedForm a bytes, 1 ≤ x.2.length ∧ x.2.length ≤ 64 ∧ x.1 % 64 + x.2.length ≤ 64) ∧
    (∀ k x y, (closedForm a bytes)[k]? = some x → (closedForm a bytes)[k + 1]? = some y →
      y.1 = x.1 + x.2.length ∧ y.1 % 64 = 0) ∧
    (∀ x, (closedForm a bytes)[0]? = some x → x.1 = a)

/-- The source's worked example: "pageSize=64, address=100, length=150 → transactions of lengths [28, 64, 58] at
addresses [100, 128, 192]": those three, in that order, of those bytes, a settle after each, and the range touches
pages 1, 2 and 3 (41 R162). -/
def Obligations.WorkedWriteExample : Prop :=
  pagesTouched 100 150 = 3 ∧ 100 / 64 = 1 ∧ (100 + 150 - 1) / 64 = 3 ∧
  ∀ (bytes : List Byte) (s : State), bytes.length = 150 → s.dev.busy = false →
    ∃ t, andThen (exec (.writeBuffer 100 bytes) s) (runMoves (writeMoves 3)) = .next t ∧
      t.history =
        [.response 0 [], .settled, .sendBuffer 192 (bytes.drop 92), .settled,
          .sendBuffer 128 ((bytes.drop 28).take 64), .settled, .sendBuffer 100 (bytes.take 28)] ++ s.history ∧
      (bytes.take 28).length = 28 ∧ ((bytes.drop 28).take 64).length = 64 ∧ (bytes.drop 92).length = 58

/-- A write transaction behind an absent device: it is issued, the pointer, the offset and the count move on and its
settle begins as with a present one, and only the addressed bytes may change (41 R164, R159, 93 U5). That each takes a
free value, one draw each, that the device counts as busy, and the page's field are the model's, logs 11 and 12. -/
def Obligations.AbsentDeviceWritesOnlyAddressedBytes : Prop :=
  ∀ s : State, s.ser.phase = .xfer → s.ser.n ≠ 0 → SerializerInv s.ser → s.dev.mem.wf = true →
    s.dev.busy = false → s.dev.present = false →
    let k := min (64 - s.ser.a.toNat % 64) s.ser.n.toNat
    let bytes := (s.ser.buf.drop s.ser.p.toNat).take k
    ∃ t o, runMove .transfer s = .next t ∧ bytes.length = k ∧
      (s.ser.single = false → o = .sendBuffer s.ser.a.toNat bytes) ∧
      (s.ser.single = true → ∃ v, bytes = [v] ∧ o = .send s.ser.a.toNat v) ∧
      t.ser.phase = .settle ∧ t.ser.a.toNat = s.ser.a.toNat + k ∧ t.ser.p.toNat = s.ser.p.toNat + k ∧
      t.ser.n.toNat + k = s.ser.n.toNat ∧ t.ser.buf = s.ser.buf ∧ t.ser.single = s.ser.single ∧
      t.dev.mem.wf = true ∧
      (∀ b, b < s.ser.a.toNat ∨ s.ser.a.toNat + k ≤ b → Memory.read t.dev.mem b = Memory.read s.dev.mem b) ∧
      t =
        { s with
          ser := t.ser
          dev := { mem := t.dev.mem, present := false, busy := true, page := s.ser.a.toNat / 64 }
          history := o :: s.history
          draws := s.draws + k }

/-- The device's wrap: a transaction of at most a page stores byte `k` at
`(a div 64) * 64 + ((a mod 64 + k) mod 64)` and touches no other byte, so one that crosses a page boundary
overwrites the start of its own page and leaves the next page alone; the device is then busy with that page
(20 R68, 42 R184, R186). That the page is remembered in a field is the model's, log 12. -/
def Obligations.DeviceWrapsInsidePage : Prop :=
  ∀ (a : Nat) (bytes : List Byte) (s : State), a < 32768 → bytes ≠ [] → bytes.length ≤ 64 →
    s.dev.mem.wf = true → s.dev.busy = false → s.dev.present = true →
    ∃ t, transportSendBuffer a bytes s = .next t ∧
      (∀ k, k < bytes.length →
        bytes[k]? = some (Memory.read t.dev.mem (a / 64 * 64 + (a % 64 + k) % 64))) ∧
      (∀ b, (∀ k, k < bytes.length → b ≠ a / 64 * 64 + (a % 64 + k) % 64) →
        Memory.read t.dev.mem b = Memory.read s.dev.mem b) ∧
      (∀ b, b / 64 ≠ a / 64 → Memory.read t.dev.mem b = Memory.read s.dev.mem b) ∧
      t =
        { s with
          dev := { mem := t.dev.mem, present := true, busy := true, page := a / 64 }
          history := .sendBuffer a bytes :: s.history }

/-! ### The whole machine -/

/-- Every step keeps the invariants: those of the engine, `out = cur`, no handler between steps, the request of
the sequencer accounted for and in range, `cmd_ready` iff no command is in progress, the device's memory in
canonical form and busy during a settle (40 R137, 10 R30, R32, R34, R39, 41 R160). -/
def Obligations.StepKeepsInvariants : Prop :=
  ∀ s t : State, Inv s → step s = .next t → Inv t

/-- Invariant `out[i] = cur[i]`: it holds at reset and every step keeps it, with no other invariant as a premise
(10 R34). -/
def Obligations.OutputsEqualCurrentDuties : Prop :=
  State.reset.out = State.reset.engine.cur ∧
  ∀ s t : State, s.out = s.engine.cur → step s = .next t → t.out = t.engine.cur

/-- The state after reset satisfies the invariants (70 R231). -/
def Obligations.ResetMeetsInvariants : Prop := Inv State.reset

/-- The reset step, from any state with the device not in a write cycle: every register of 70 R231 at its reset
value, the duties at `RESET_DUTY` emitted in channel order, `mem`, `present`, `dev_busy` not touched, no response; the
serializer's other registers are unspecified (70 R231, R232, R233). Their free values are the model's, log 4. -/
def Obligations.ResetWritesRegisters : Prop :=
  ∀ (s : State) (moves : List Move), s.schedule = .reset :: moves → s.dev.busy = false →
    ∃ q : Serializer, q.phase = .idle ∧
      step s = .next
        { s with
          schedule := moves
          engine :=
            { cur := s.resetDuty, tgt := ⟨0, 0, 0, 0⟩, tag := .idle, cnt := 0, fade := 0, hold := 0 }
          out := s.resetDuty
          arb := { pendPwm := false, pendSensor := false, pendRx := false, inService := false }
          port := { s.port with cmdReady := true, immWait := none }
          ser := q
          history :=
            .duty .ch4 s.resetDuty.ch4 :: .duty .ch3 s.resetDuty.ch3 ::
              .duty .ch2 s.resetDuty.ch2 :: .duty .ch1 s.resetDuty.ch1 :: s.history
          draws := s.draws + 1 }

/-- A reset that cuts a write cycle writes the registers as any reset does (70 R231) and leaves no more than the page
being written unspecified: every byte outside it keeps its contents, the device stays busy, the command is abandoned
without a response (70 R232, R233, 93 U9). That the bytes of the page take free values, one draw each, is the model's,
log 12; the serializer's free registers are log 4. -/
def Obligations.ResetCutsOnlyOnePage : Prop :=
  ∀ (s : State) (moves : List Move), s.schedule = .reset :: moves → s.dev.busy = true →
    s.dev.mem.wf = true → s.dev.page < 512 →
    ∃ (q : Serializer) (m : Memory), q.phase = .idle ∧ m.wf = true ∧
      (∀ b, b / 64 ≠ s.dev.page → Memory.read m b = Memory.read s.dev.mem b) ∧
      step s = .next
        { s with
          schedule := moves
          engine :=
            { cur := s.resetDuty, tgt := ⟨0, 0, 0, 0⟩, tag := .idle, cnt := 0, fade := 0, hold := 0 }
          out := s.resetDuty
          arb := { pendPwm := false, pendSensor := false, pendRx := false, inService := false }
          port := { s.port with cmdReady := true, immWait := none }
          ser := q
          dev := { s.dev with mem := m }
          history :=
            .duty .ch4 s.resetDuty.ch4 :: .duty .ch3 s.resetDuty.ch3 ::
              .duty .ch2 s.resetDuty.ch2 :: .duty .ch1 s.resetDuty.ch1 :: s.history
          draws := s.draws + 64 + 1 }

/-- The two moves of the device's side write one bit each: the environment plugs the device in or out, and outside a
settle the device ends its write cycle by itself (10 R41, R42, 70 R233). The second move is the model's, log 13. -/
def Obligations.EnvironmentMovesWriteTheirBit : Prop :=
  ∀ (s : State) (b : Bool) (moves : List Move),
    (s.schedule = .setPresent b :: moves →
      step s = .next { s with schedule := moves, dev := { s.dev with present := b } }) ∧
    (s.schedule = .deviceDone :: moves → s.ser.phase ≠ .settle →
      step s = .next { s with schedule := moves, dev := { s.dev with busy := false } })

/-- While a settle runs, no step issues a transport transaction of any kind, and the command does not complete
unless the reset input abandons it (41 R163, 20 R71, R73). -/
def Obligations.NoTransactionWhileSettling : Prop :=
  ∀ s t : State, Inv s → s.ser.phase = .settle → step s = .next t →
    (∃ new, t.history = new ++ s.history ∧ ∀ o ∈ new, o.isTransaction = false) ∧
    ((∀ moves, s.schedule ≠ .reset :: moves) → t.port.cmdReady = false)

/-- Every buffer write that a step issues is of 1 to 64 bytes and stays inside one page (41 R157, R160, 70 R245);
reads may cross pages (20 R63). -/
def Obligations.EveryBufferWriteInsideOnePage : Prop :=
  ∀ s t : State, Inv s → step s = .next t → ∃ new, t.history = new ++ s.history ∧
    ∀ a bytes, .sendBuffer a bytes ∈ new →
      1 ≤ bytes.length ∧ a % 64 + bytes.length ≤ 64 ∧ a + bytes.length ≤ 32768

/-- Without a reset no run stops at a busy device: while every write cycle is covered by a settle, no step but the
reset faults, and the cover is kept (20 R71, 41 R163, 70 R246). -/
def Obligations.SettleCoversWriteCycle : Prop :=
  ∀ s : State, Inv s → CycleCovered s → (∀ moves, s.schedule ≠ .reset :: moves) →
    (∀ f, step s ≠ .fault f) ∧ ∀ t, step s = .next t → CycleCovered t

/-- The two units share no resource: an operation or a move of the ramp engine and its arbiter neither reads nor writes
the serializer or the device; an operation of the serializer, a move of its sequencer, of the settle timer or of the
device neither reads nor writes the engine, the outputs or the arbiter (10 R46, 41 R167, 60 R210). -/
def Obligations.UnitsAreIndependent : Prop :=
  ∀ (i : Instr) (m : Move) (s : State) (q : Serializer) (d : Device) (e : Engine) (o : Duties) (b : Arbiter),
    (isRampOp i = true → ∃ t, exec i s = .next t ∧ t.ser = s.ser ∧ t.dev = s.dev ∧
      exec i { s with ser := q, dev := d } = .next { t with ser := q, dev := d }) ∧
    (isRampMove m = true → ∃ t, runMove m s = .next t ∧ t.ser = s.ser ∧ t.dev = s.dev ∧
      runMove m { s with ser := q, dev := d } = .next { t with ser := q, dev := d }) ∧
    (isSerializerOp i = true →
      OutcomesAlike
        (fun t t' => t.engine = s.engine ∧ t.out = s.out ∧ t.arb = s.arb ∧
          t' = { t with engine := e, out := o, arb := b })
        (exec i s) (exec i { s with engine := e, out := o, arb := b })) ∧
    (isSerializerMove m = true →
      OutcomesAlike
        (fun t t' => t.engine = s.engine ∧ t.out = s.out ∧ t.arb = s.arb ∧
          t' = { t with engine := e, out := o, arb := b })
        (runMove m s) (runMove m { s with engine := e, out := o, arb := b }))

/-- In a quiescent state a further tick, raised and served, changes nothing at all (70 R251, 40 R129). -/
def Obligations.QuiescentTickIsNoOp : Prop :=
  ∀ s : State, Inv s → quiescent s = true →
    runMoves [.raise 1, .entry] s = .next s
end

