-- ==== Sys2Proof/Laws/Decode.lean ====
section
/-! SUPPORT. The bits of the two word layouts of spec/30_encoding.md R92, and when a row of the opcode map is hit. -/

namespace Sys2Proof

/-- Bit `k` of a format I or format R word. -/
theorem wordR_getLsbD (op d1 d2 d3 d4 : Byte) (f h : BitVec 16) (k : Nat) :
    (wordR op d1 d2 d3 d4 f h).getLsbD k =
      if k < 16 then h.getLsbD k
      else if k - 16 < 16 then f.getLsbD (k - 16)
      else if k - 16 - 16 < 8 then d4.getLsbD (k - 16 - 16)
      else if k - 16 - 16 - 8 < 8 then d3.getLsbD (k - 16 - 16 - 8)
      else if k - 16 - 16 - 8 - 8 < 8 then d2.getLsbD (k - 16 - 16 - 8 - 8)
      else if k - 16 - 16 - 8 - 8 - 8 < 8 then d1.getLsbD (k - 16 - 16 - 8 - 8 - 8)
      else op.getLsbD (k - 16 - 16 - 8 - 8 - 8 - 8) := by
  change BitVec.getLsbD (w := 8 + 8 + 8 + 8 + 8 + 16 + 16) (op ++ d1 ++ d2 ++ d3 ++ d4 ++ f ++ h) k = _
  simp only [BitVec.getLsbD_append]

/-- Bit `k` of a format Q or format M word. -/
theorem wordM_getLsbD (op : Byte) (a n : BitVec 16) (v : Byte) (k : Nat) :
    (wordM op a n v).getLsbD k =
      if k < 24 then false
      else if k - 24 < 8 then v.getLsbD (k - 24)
      else if k - 24 - 8 < 16 then n.getLsbD (k - 24 - 8)
      else if k - 24 - 8 - 16 < 16 then a.getLsbD (k - 24 - 8 - 16)
      else op.getLsbD (k - 24 - 8 - 16 - 16) := by
  change BitVec.getLsbD (w := 8 + 16 + 16 + 8 + 24) (op ++ a ++ n ++ v ++ (0 : BitVec 24)) k = _
  simp only [BitVec.getLsbD_append]
  split
  · simp
  · rfl

/-- A row is hit exactly when every bit its mask keeps is the pattern's (30 R99). -/
theorem OpRow.hits_iff (r : OpRow) (w : CmdWord) :
    r.hits w = true ↔ ∀ k, k < 72 → (w.getLsbD k && r.mask.getLsbD k) = r.pattern.getLsbD k := by
  rw [OpRow.hits, beq_iff_eq]
  constructor
  · intro h k _
    rw [← h, BitVec.getLsbD_and]
  · intro h
    apply BitVec.eq_of_getLsbD_eq
    intro k hk
    rw [BitVec.getLsbD_and]
    exact h k hk

/-- No command word spells a handler: those are selected by events only (30 R101). -/
theorem decodeCommand_not_handler {w : CmdWord} {stream left : List Byte} {i : Instr}
    (h : decodeCommand w stream = .ok (i, left)) : i ≠ .onTick ∧ i ≠ .sensorHandler ∧ i ≠ .rxHandler := by
  have pay : ∀ a n, takePayload a n stream = .ok (i, left) → ∃ b, i = .writeBuffer a b := by
    intro a n h
    unfold takePayload at h
    split at h
    · cases h
    · cases h
      exact ⟨_, rfl⟩
  unfold decodeCommand at h
  repeat' split at h
  all_goals first
    | (cases h <;> simp)
    | (obtain ⟨b, rfl⟩ := pay _ _ h; simp)

end Sys2Proof
end

