-- ==== Sys2Proof/Laws/Memory.lean ====
section
/-! SUPPORT. The laws of the EEPROM contents: every operation keeps the canonical form, a read after a write, and
what one write transaction stores. -/

namespace Sys2Proof.Machine

theorem wfFrom_cons (lo a : Nat) (v : Byte) (m : Memory) :
    Memory.wfFrom lo ((a, v) :: m) = true ↔
      lo ≤ a ∧ a < Config.cap ∧ v ≠ Config.unlistedByte ∧ Memory.wfFrom (a + 1) m = true := by
  simp [Memory.wfFrom, and_assoc]

/-- A lower bound may be lowered. -/
theorem wfFrom_mono {lo lo' : Nat} (h : lo' ≤ lo) {m : Memory} (hm : Memory.wfFrom lo m = true) :
    Memory.wfFrom lo' m = true := by
  cases m with
  | nil => rfl
  | cons x m =>
    obtain ⟨a, v⟩ := x
    rw [wfFrom_cons] at hm ⊢
    exact ⟨by omega, hm.2⟩

/-- Below the lower bound nothing is listed. -/
theorem read_below {lo a : Nat} {m : Memory} (hm : Memory.wfFrom lo m = true) (h : a < lo) :
    Memory.read m a = Config.unlistedByte := by
  induction m generalizing lo with
  | nil => rfl
  | cons x m ih =>
    obtain ⟨b, w⟩ := x
    rw [wfFrom_cons] at hm
    have hne : ¬a = b := by omega
    simp only [Memory.read, hne, if_false]
    exact ih hm.2.2.2 (by omega)

/-- A write keeps the canonical form. -/
theorem write_wfFrom {lo a : Nat} {v : Byte} {m : Memory} (hm : Memory.wfFrom lo m = true) (hlo : lo ≤ a)
    (ha : a < Config.cap) : Memory.wfFrom lo (Memory.write m a v) = true := by
  induction m generalizing lo with
  | nil =>
    unfold Memory.write
    split
    · rfl
    · rw [wfFrom_cons]
      exact ⟨hlo, ha, by assumption, rfl⟩
  | cons x m ih =>
    obtain ⟨b, w⟩ := x
    have hb := (wfFrom_cons lo b w m).mp hm
    unfold Memory.write
    split
    · split
      · exact hm
      · rw [wfFrom_cons]
        refine ⟨hlo, ha, by assumption, ?_⟩
        rw [wfFrom_cons]
        exact ⟨by omega, hb.2⟩
    · split
      · split
        · exact wfFrom_mono (by omega) hb.2.2.2
        · subst a
          rw [wfFrom_cons]
          exact ⟨hlo, ha, by assumption, hb.2.2.2⟩
      · rw [wfFrom_cons]
        exact ⟨hb.1, hb.2.1, hb.2.2.1, ih hb.2.2.2 (by omega)⟩

/-- A write keeps the canonical form. -/
theorem write_wf {a : Nat} {v : Byte} {m : Memory} (hm : m.wf = true) (ha : a < Config.cap) :
    (Memory.write m a v).wf = true :=
  write_wfFrom hm (Nat.zero_le a) ha

theorem read_write_from {lo a b : Nat} {v : Byte} {m : Memory} (hm : Memory.wfFrom lo m = true) :
    Memory.read (Memory.write m a v) b = if b = a then v else Memory.read m b := by
  induction m generalizing lo with
  | nil =>
    unfold Memory.write
    split
    · subst v
      simp [Memory.read]
    · simp [Memory.read]
  | cons x m ih =>
    obtain ⟨c, w⟩ := x
    have hc := (wfFrom_cons lo c w m).mp hm
    have hbelow := fun h : a < c + 1 => read_below hc.2.2.2 h
    unfold Memory.write
    split
    · have hne : ¬a = c := by omega
      split
      · by_cases hba : b = a
        · subst b v
          simp [Memory.read, hne, hbelow (by omega)]
        · simp [hba]
      · by_cases hba : b = a <;> simp [Memory.read, hba]
    · split
      · subst a
        split
        · by_cases hba : b = c
          · subst b v
            simp [hbelow (by omega)]
          · simp [Memory.read, hba]
        · by_cases hba : b = c <;> simp [Memory.read, hba]
      · by_cases hbc : b = c
        · have hba : ¬b = a := by omega
          have hca : ¬c = a := by omega
          simp [Memory.read, hbc, hca]
        · simp [Memory.read, hbc, ih hc.2.2.2]

/-- A read after a write: the value written there, the old value elsewhere. -/
theorem read_write {a b : Nat} {v : Byte} {m : Memory} (hm : m.wf = true) :
    Memory.read (Memory.write m a v) b = if b = a then v else Memory.read m b :=
  read_write_from hm

theorem read_write_same {a : Nat} {v : Byte} {m : Memory} (hm : m.wf = true) :
    Memory.read (Memory.write m a v) a = v := by simp [read_write hm]

theorem read_write_other {a b : Nat} {v : Byte} {m : Memory} (hm : m.wf = true) (h : b ≠ a) :
    Memory.read (Memory.write m a v) b = Memory.read m b := by simp [read_write hm, h]

/-- Two memories in canonical form that read alike are equal. -/
theorem memory_ext_from {lo : Nat} {m m' : Memory} (hm : Memory.wfFrom lo m = true)
    (hm' : Memory.wfFrom lo m' = true) (h : ∀ a, Memory.read m a = Memory.read m' a) : m = m' := by
  induction m generalizing m' lo with
  | nil =>
    cases m' with
    | nil => rfl
    | cons x m' =>
      obtain ⟨a, v⟩ := x
      rw [wfFrom_cons] at hm'
      have := h a
      simp [Memory.read] at this
      exact absurd this.symm hm'.2.2.1
  | cons x m ih =>
    obtain ⟨a, v⟩ := x
    rw [wfFrom_cons] at hm
    cases m' with
    | nil =>
      have := h a
      simp [Memory.read] at this
      exact absurd this hm.2.2.1
    | cons y m' =>
      obtain ⟨b, w⟩ := y
      rw [wfFrom_cons] at hm'
      have ha := h a
      have hb := h b
      simp only [Memory.read, if_true] at ha hb
      have hab : a = b := by
        rcases Nat.lt_trichotomy a b with hlt | heq | hgt
        · rw [if_neg (by omega), read_below hm'.2.2.2 (by omega)] at ha
          exact absurd ha hm.2.2.1
        · exact heq
        · rw [if_neg (by omega), read_below hm.2.2.2 (by omega)] at hb
          exact absurd hb.symm hm'.2.2.1
      subst b
      clear ha hb
      have hvw : v = w := by simpa [Memory.read] using h a
      subst w
      have hrest : m = m' := by
        refine ih hm.2.2.2 hm'.2.2.2 fun c => ?_
        by_cases hca : c = a
        · subst c
          rw [read_below hm.2.2.2 (by omega), read_below hm'.2.2.2 (by omega)]
        · simpa [Memory.read, hca] using h c
      rw [hrest]

@[simp] theorem readBytes_length (m : Memory) (a n : Nat) : (Memory.readBytes m a n).length = n := by
  induction n generalizing a with
  | zero => rfl
  | succ n ih => simp [Memory.readBytes, ih]

/-- Byte `k` of a read comes from `address + k` (20 R62). -/
theorem readBytes_getElem? (m : Memory) (a n k : Nat) (hk : k < n) :
    (Memory.readBytes m a n)[k]? = some (Memory.read m (a + k)) := by
  induction n generalizing a k with
  | zero => omega
  | succ n ih =>
    cases k with
    | zero => simp [Memory.readBytes]
    | succ k =>
      simp only [Memory.readBytes, List.getElem?_cons_succ]
      rw [ih (a + 1) k (by omega)]
      congr 2
      omega

theorem wrapAddress_lt_cap {a k : Nat} (ha : a < Config.cap) : wrapAddress a k < Config.cap := by
  simp only [wrapAddress, Config.cap, Config.page] at *
  omega

/-- The device's wrap stays in the page (20 R68). -/
theorem wrapAddress_page (a k : Nat) : wrapAddress a k / Config.page = a / Config.page := by
  simp only [wrapAddress, Config.page]
  omega

/-- Inside one page the address is `a + k` (20 R68). -/
theorem wrapAddress_inside {a k : Nat} (h : a % Config.page + k < Config.page) : wrapAddress a k = a + k := by
  simp only [wrapAddress, Config.page] at *
  omega

theorem wrapAddress_inj {a j k : Nat} (hj : j < Config.page) (hk : k < Config.page)
    (h : wrapAddress a j = wrapAddress a k) : j = k := by
  simp only [wrapAddress, Config.page] at *
  omega

/-- A write transaction keeps the canonical form. -/
theorem storeFrom_wf {m : Memory} {a k : Nat} {vs : List Byte} (hm : m.wf = true) (ha : a < Config.cap) :
    (Memory.storeFrom m a k vs).wf = true := by
  induction vs generalizing m k with
  | nil => exact hm
  | cons v vs ih => exact ih (write_wf hm (wrapAddress_lt_cap ha))

/-- A write transaction changes no byte but the addressed ones. -/
theorem storeFrom_other {m : Memory} {a k b : Nat} {vs : List Byte} (hm : m.wf = true) (ha : a < Config.cap)
    (hb : ∀ j, j < vs.length → b ≠ wrapAddress a (k + j)) :
    Memory.read (Memory.storeFrom m a k vs) b = Memory.read m b := by
  induction vs generalizing m k with
  | nil => rfl
  | cons v vs ih =>
    have h0 : b ≠ wrapAddress a k := by simpa using hb 0 (by simp)
    simp only [Memory.storeFrom]
    rw [ih (write_wf hm (wrapAddress_lt_cap ha)), read_write_other hm h0]
    intro j hj
    have := hb (j + 1) (by simpa using hj)
    rwa [show k + 1 + j = k + (j + 1) by omega]

/-- A write transaction of at most one page stores byte `j` at its wrapped address (20 R68). -/
theorem storeFrom_stored {m : Memory} {a k j : Nat} {vs : List Byte} {v : Byte} (hm : m.wf = true)
    (ha : a < Config.cap) (hk : k + vs.length ≤ Config.page) (hj : vs[j]? = some v) :
    Memory.read (Memory.storeFrom m a k vs) (wrapAddress a (k + j)) = v := by
  induction vs generalizing m k j with
  | nil => simp at hj
  | cons w vs ih =>
    have hwf := write_wf (a := wrapAddress a k) (v := w) hm (wrapAddress_lt_cap ha)
    simp only [List.length_cons] at hk
    simp only [Memory.storeFrom]
    cases j with
    | zero =>
      simp only [List.getElem?_cons_zero, Option.some.injEq] at hj
      subst w
      rw [storeFrom_other hwf ha, Nat.add_zero, read_write_same hm]
      intro i hi heq
      have := wrapAddress_inj (a := a) (j := k + 0) (k := k + 1 + i) (by omega) (by omega) heq
      omega
    | succ j =>
      rw [show k + (j + 1) = k + 1 + j by omega]
      exact ih hwf (by omega) (by simpa using hj)

/-- An address outside the page of `a` is untouched by any write transaction at `a` (20 R68). -/
theorem storeFrom_outside_page {m : Memory} {a k b : Nat} {vs : List Byte} (hm : m.wf = true)
    (ha : a < Config.cap) (hb : b / Config.page ≠ a / Config.page) :
    Memory.read (Memory.storeFrom m a k vs) b = Memory.read m b :=
  storeFrom_other hm ha fun j _ h => hb (by rw [h, wrapAddress_page])

end Sys2Proof.Machine
end

