-- ==== Sys2Proof/Laws/State.lean ====
section
/-! SUPPORT. One lemma for each field of State under each named update, true by rfl and tagged @[simp]: no later
proof unfolds a record update. -/

namespace Sys2Proof.Machine

@[simp] theorem emitDuty_engine (c : Channel) (v : Byte) (s : State) :
    (emitDuty c v s).engine = s.engine := rfl
@[simp] theorem emitDuty_out (c : Channel) (v : Byte) (s : State) :
    (emitDuty c v s).out = setDuty s.out c v := rfl
@[simp] theorem emitDuty_arb (c : Channel) (v : Byte) (s : State) : (emitDuty c v s).arb = s.arb := rfl
@[simp] theorem emitDuty_port (c : Channel) (v : Byte) (s : State) :
    (emitDuty c v s).port = s.port := rfl
@[simp] theorem emitDuty_ser (c : Channel) (v : Byte) (s : State) : (emitDuty c v s).ser = s.ser := rfl
@[simp] theorem emitDuty_dev (c : Channel) (v : Byte) (s : State) : (emitDuty c v s).dev = s.dev := rfl
@[simp] theorem emitDuty_setImmMode (c : Channel) (v : Byte) (s : State) :
    (emitDuty c v s).setImmMode = s.setImmMode := rfl
@[simp] theorem emitDuty_resetDuty (c : Channel) (v : Byte) (s : State) :
    (emitDuty c v s).resetDuty = s.resetDuty := rfl
@[simp] theorem emitDuty_hostQueue (c : Channel) (v : Byte) (s : State) :
    (emitDuty c v s).hostQueue = s.hostQueue := rfl
@[simp] theorem emitDuty_schedule (c : Channel) (v : Byte) (s : State) :
    (emitDuty c v s).schedule = s.schedule := rfl
@[simp] theorem emitDuty_history (c : Channel) (v : Byte) (s : State) :
    (emitDuty c v s).history = .duty c v :: s.history := rfl
@[simp] theorem emitDuty_draws (c : Channel) (v : Byte) (s : State) :
    (emitDuty c v s).draws = s.draws := rfl

@[simp] theorem emitAll_engine (d : Duties) (s : State) : (emitAll d s).engine = s.engine := rfl
@[simp] theorem emitAll_out (d : Duties) (s : State) : (emitAll d s).out = d := rfl
@[simp] theorem emitAll_arb (d : Duties) (s : State) : (emitAll d s).arb = s.arb := rfl
@[simp] theorem emitAll_port (d : Duties) (s : State) : (emitAll d s).port = s.port := rfl
@[simp] theorem emitAll_ser (d : Duties) (s : State) : (emitAll d s).ser = s.ser := rfl
@[simp] theorem emitAll_dev (d : Duties) (s : State) : (emitAll d s).dev = s.dev := rfl
@[simp] theorem emitAll_setImmMode (d : Duties) (s : State) :
    (emitAll d s).setImmMode = s.setImmMode := rfl
@[simp] theorem emitAll_resetDuty (d : Duties) (s : State) :
    (emitAll d s).resetDuty = s.resetDuty := rfl
@[simp] theorem emitAll_hostQueue (d : Duties) (s : State) :
    (emitAll d s).hostQueue = s.hostQueue := rfl
@[simp] theorem emitAll_schedule (d : Duties) (s : State) : (emitAll d s).schedule = s.schedule := rfl
@[simp] theorem emitAll_history (d : Duties) (s : State) :
    (emitAll d s).history = .duty .ch4 d.ch4 :: .duty .ch3 d.ch3 :: .duty .ch2 d.ch2 :: .duty .ch1 d.ch1 :: s.history := rfl
@[simp] theorem emitAll_draws (d : Duties) (s : State) : (emitAll d s).draws = s.draws := rfl

@[simp] theorem applyDuties_engine (d : Duties) (s : State) :
    (applyDuties d s).engine = { s.engine with cur := d } := rfl
@[simp] theorem applyDuties_out (d : Duties) (s : State) : (applyDuties d s).out = d := rfl
@[simp] theorem applyDuties_arb (d : Duties) (s : State) : (applyDuties d s).arb = s.arb := rfl
@[simp] theorem applyDuties_port (d : Duties) (s : State) : (applyDuties d s).port = s.port := rfl
@[simp] theorem applyDuties_ser (d : Duties) (s : State) : (applyDuties d s).ser = s.ser := rfl
@[simp] theorem applyDuties_dev (d : Duties) (s : State) : (applyDuties d s).dev = s.dev := rfl
@[simp] theorem applyDuties_setImmMode (d : Duties) (s : State) :
    (applyDuties d s).setImmMode = s.setImmMode := rfl
@[simp] theorem applyDuties_resetDuty (d : Duties) (s : State) :
    (applyDuties d s).resetDuty = s.resetDuty := rfl
@[simp] theorem applyDuties_hostQueue (d : Duties) (s : State) :
    (applyDuties d s).hostQueue = s.hostQueue := rfl
@[simp] theorem applyDuties_schedule (d : Duties) (s : State) :
    (applyDuties d s).schedule = s.schedule := rfl
@[simp] theorem applyDuties_history (d : Duties) (s : State) :
    (applyDuties d s).history = .duty .ch4 d.ch4 :: .duty .ch3 d.ch3 :: .duty .ch2 d.ch2 :: .duty .ch1 d.ch1 :: s.history := rfl
@[simp] theorem applyDuties_draws (d : Duties) (s : State) : (applyDuties d s).draws = s.draws := rfl

@[simp] theorem respond_engine (r : BitVec 16) (b : List Byte) (s : State) :
    (respond r b s).engine = s.engine := rfl
@[simp] theorem respond_out (r : BitVec 16) (b : List Byte) (s : State) :
    (respond r b s).out = s.out := rfl
@[simp] theorem respond_arb (r : BitVec 16) (b : List Byte) (s : State) :
    (respond r b s).arb = s.arb := rfl
@[simp] theorem respond_port (r : BitVec 16) (b : List Byte) (s : State) :
    (respond r b s).port = { s.port with rsp := r, rdata := b } := rfl
@[simp] theorem respond_ser (r : BitVec 16) (b : List Byte) (s : State) :
    (respond r b s).ser = s.ser := rfl
@[simp] theorem respond_dev (r : BitVec 16) (b : List Byte) (s : State) :
    (respond r b s).dev = s.dev := rfl
@[simp] theorem respond_setImmMode (r : BitVec 16) (b : List Byte) (s : State) :
    (respond r b s).setImmMode = s.setImmMode := rfl
@[simp] theorem respond_resetDuty (r : BitVec 16) (b : List Byte) (s : State) :
    (respond r b s).resetDuty = s.resetDuty := rfl
@[simp] theorem respond_hostQueue (r : BitVec 16) (b : List Byte) (s : State) :
    (respond r b s).hostQueue = s.hostQueue := rfl
@[simp] theorem respond_schedule (r : BitVec 16) (b : List Byte) (s : State) :
    (respond r b s).schedule = s.schedule := rfl
@[simp] theorem respond_history (r : BitVec 16) (b : List Byte) (s : State) :
    (respond r b s).history = .response r b :: s.history := rfl
@[simp] theorem respond_draws (r : BitVec 16) (b : List Byte) (s : State) :
    (respond r b s).draws = s.draws := rfl

@[simp] theorem setReady_engine (r : Bool) (s : State) : (setReady r s).engine = s.engine := rfl
@[simp] theorem setReady_out (r : Bool) (s : State) : (setReady r s).out = s.out := rfl
@[simp] theorem setReady_arb (r : Bool) (s : State) : (setReady r s).arb = s.arb := rfl
@[simp] theorem setReady_port (r : Bool) (s : State) :
    (setReady r s).port = { s.port with cmdReady := r } := rfl
@[simp] theorem setReady_ser (r : Bool) (s : State) : (setReady r s).ser = s.ser := rfl
@[simp] theorem setReady_dev (r : Bool) (s : State) : (setReady r s).dev = s.dev := rfl
@[simp] theorem setReady_setImmMode (r : Bool) (s : State) :
    (setReady r s).setImmMode = s.setImmMode := rfl
@[simp] theorem setReady_resetDuty (r : Bool) (s : State) :
    (setReady r s).resetDuty = s.resetDuty := rfl
@[simp] theorem setReady_hostQueue (r : Bool) (s : State) :
    (setReady r s).hostQueue = s.hostQueue := rfl
@[simp] theorem setReady_schedule (r : Bool) (s : State) : (setReady r s).schedule = s.schedule := rfl
@[simp] theorem setReady_history (r : Bool) (s : State) : (setReady r s).history = s.history := rfl
@[simp] theorem setReady_draws (r : Bool) (s : State) : (setReady r s).draws = s.draws := rfl

@[simp] theorem completeCommand_engine (s : State) : (completeCommand s).engine = s.engine := rfl
@[simp] theorem completeCommand_out (s : State) : (completeCommand s).out = s.out := rfl
@[simp] theorem completeCommand_arb (s : State) : (completeCommand s).arb = s.arb := rfl
@[simp] theorem completeCommand_port (s : State) :
    (completeCommand s).port = { s.port with cmdReady := true, rsp := 0, rdata := [] } := rfl
@[simp] theorem completeCommand_ser (s : State) : (completeCommand s).ser = s.ser := rfl
@[simp] theorem completeCommand_dev (s : State) : (completeCommand s).dev = s.dev := rfl
@[simp] theorem completeCommand_setImmMode (s : State) :
    (completeCommand s).setImmMode = s.setImmMode := rfl
@[simp] theorem completeCommand_resetDuty (s : State) :
    (completeCommand s).resetDuty = s.resetDuty := rfl
@[simp] theorem completeCommand_hostQueue (s : State) :
    (completeCommand s).hostQueue = s.hostQueue := rfl
@[simp] theorem completeCommand_schedule (s : State) : (completeCommand s).schedule = s.schedule := rfl
@[simp] theorem completeCommand_history (s : State) :
    (completeCommand s).history = .response 0 [] :: s.history := rfl
@[simp] theorem completeCommand_draws (s : State) : (completeCommand s).draws = s.draws := rfl

@[simp] theorem countDraws_engine (k : Nat) (s : State) : (countDraws k s).engine = s.engine := rfl
@[simp] theorem countDraws_out (k : Nat) (s : State) : (countDraws k s).out = s.out := rfl
@[simp] theorem countDraws_arb (k : Nat) (s : State) : (countDraws k s).arb = s.arb := rfl
@[simp] theorem countDraws_port (k : Nat) (s : State) : (countDraws k s).port = s.port := rfl
@[simp] theorem countDraws_ser (k : Nat) (s : State) : (countDraws k s).ser = s.ser := rfl
@[simp] theorem countDraws_dev (k : Nat) (s : State) : (countDraws k s).dev = s.dev := rfl
@[simp] theorem countDraws_setImmMode (k : Nat) (s : State) :
    (countDraws k s).setImmMode = s.setImmMode := rfl
@[simp] theorem countDraws_resetDuty (k : Nat) (s : State) :
    (countDraws k s).resetDuty = s.resetDuty := rfl
@[simp] theorem countDraws_hostQueue (k : Nat) (s : State) :
    (countDraws k s).hostQueue = s.hostQueue := rfl
@[simp] theorem countDraws_schedule (k : Nat) (s : State) :
    (countDraws k s).schedule = s.schedule := rfl
@[simp] theorem countDraws_history (k : Nat) (s : State) : (countDraws k s).history = s.history := rfl
@[simp] theorem countDraws_draws (k : Nat) (s : State) : (countDraws k s).draws = s.draws + k := rfl

@[simp] theorem clearSerializer_engine (s : State) : (clearSerializer s).engine = s.engine := rfl
@[simp] theorem clearSerializer_out (s : State) : (clearSerializer s).out = s.out := rfl
@[simp] theorem clearSerializer_arb (s : State) : (clearSerializer s).arb = s.arb := rfl
@[simp] theorem clearSerializer_port (s : State) : (clearSerializer s).port = s.port := rfl
@[simp] theorem clearSerializer_ser (s : State) :
    (clearSerializer s).ser = 
      { phase := .idle, a := Config.freeSerA s.draws, p := Config.freeSerP s.draws,
        n := Config.freeSerN s.draws, buf := Config.freeSerBuf s.draws, single := s.ser.single } := rfl
@[simp] theorem clearSerializer_dev (s : State) : (clearSerializer s).dev = s.dev := rfl
@[simp] theorem clearSerializer_setImmMode (s : State) :
    (clearSerializer s).setImmMode = s.setImmMode := rfl
@[simp] theorem clearSerializer_resetDuty (s : State) :
    (clearSerializer s).resetDuty = s.resetDuty := rfl
@[simp] theorem clearSerializer_hostQueue (s : State) :
    (clearSerializer s).hostQueue = s.hostQueue := rfl
@[simp] theorem clearSerializer_schedule (s : State) : (clearSerializer s).schedule = s.schedule := rfl
@[simp] theorem clearSerializer_history (s : State) : (clearSerializer s).history = s.history := rfl
@[simp] theorem clearSerializer_draws (s : State) : (clearSerializer s).draws = s.draws + 1 := rfl

@[simp] theorem startWrite_engine (b : Bool) (a : BitVec 16) (v : List Byte) (s : State) :
    (startWrite b a v s).engine = s.engine := rfl
@[simp] theorem startWrite_out (b : Bool) (a : BitVec 16) (v : List Byte) (s : State) :
    (startWrite b a v s).out = s.out := rfl
@[simp] theorem startWrite_arb (b : Bool) (a : BitVec 16) (v : List Byte) (s : State) :
    (startWrite b a v s).arb = s.arb := rfl
@[simp] theorem startWrite_port (b : Bool) (a : BitVec 16) (v : List Byte) (s : State) :
    (startWrite b a v s).port = { s.port with cmdReady := false } := rfl
@[simp] theorem startWrite_ser (b : Bool) (a : BitVec 16) (v : List Byte) (s : State) :
    (startWrite b a v s).ser = 
      { phase := .xfer, a := widenAddress a, p := 0, n := BitVec.ofNat 16 v.length, buf := v, single := b } := rfl
@[simp] theorem startWrite_dev (b : Bool) (a : BitVec 16) (v : List Byte) (s : State) :
    (startWrite b a v s).dev = s.dev := rfl
@[simp] theorem startWrite_setImmMode (b : Bool) (a : BitVec 16) (v : List Byte) (s : State) :
    (startWrite b a v s).setImmMode = s.setImmMode := rfl
@[simp] theorem startWrite_resetDuty (b : Bool) (a : BitVec 16) (v : List Byte) (s : State) :
    (startWrite b a v s).resetDuty = s.resetDuty := rfl
@[simp] theorem startWrite_hostQueue (b : Bool) (a : BitVec 16) (v : List Byte) (s : State) :
    (startWrite b a v s).hostQueue = s.hostQueue := rfl
@[simp] theorem startWrite_schedule (b : Bool) (a : BitVec 16) (v : List Byte) (s : State) :
    (startWrite b a v s).schedule = s.schedule := rfl
@[simp] theorem startWrite_history (b : Bool) (a : BitVec 16) (v : List Byte) (s : State) :
    (startWrite b a v s).history = s.history := rfl
@[simp] theorem startWrite_draws (b : Bool) (a : BitVec 16) (v : List Byte) (s : State) :
    (startWrite b a v s).draws = s.draws := rfl

@[simp] theorem raiseEvents_engine (ev : EventLines) (s : State) :
    (raiseEvents ev s).engine = s.engine := rfl
@[simp] theorem raiseEvents_out (ev : EventLines) (s : State) : (raiseEvents ev s).out = s.out := rfl
@[simp] theorem raiseEvents_arb (ev : EventLines) (s : State) :
    (raiseEvents ev s).arb = 
      { s.arb with
        pendPwm := s.arb.pendPwm || ev.getLsbD 0
        pendSensor := s.arb.pendSensor || ev.getLsbD 1
        pendRx := s.arb.pendRx || ev.getLsbD 2 } := rfl
@[simp] theorem raiseEvents_port (ev : EventLines) (s : State) : (raiseEvents ev s).port = s.port := rfl
@[simp] theorem raiseEvents_ser (ev : EventLines) (s : State) : (raiseEvents ev s).ser = s.ser := rfl
@[simp] theorem raiseEvents_dev (ev : EventLines) (s : State) : (raiseEvents ev s).dev = s.dev := rfl
@[simp] theorem raiseEvents_setImmMode (ev : EventLines) (s : State) :
    (raiseEvents ev s).setImmMode = s.setImmMode := rfl
@[simp] theorem raiseEvents_resetDuty (ev : EventLines) (s : State) :
    (raiseEvents ev s).resetDuty = s.resetDuty := rfl
@[simp] theorem raiseEvents_hostQueue (ev : EventLines) (s : State) :
    (raiseEvents ev s).hostQueue = s.hostQueue := rfl
@[simp] theorem raiseEvents_schedule (ev : EventLines) (s : State) :
    (raiseEvents ev s).schedule = s.schedule := rfl
@[simp] theorem raiseEvents_history (ev : EventLines) (s : State) :
    (raiseEvents ev s).history = s.history := rfl
@[simp] theorem raiseEvents_draws (ev : EventLines) (s : State) :
    (raiseEvents ev s).draws = s.draws := rfl

@[simp] theorem leaveHandler_engine (s : State) : (leaveHandler s).engine = s.engine := rfl
@[simp] theorem leaveHandler_out (s : State) : (leaveHandler s).out = s.out := rfl
@[simp] theorem leaveHandler_arb (s : State) :
    (leaveHandler s).arb = { s.arb with inService := false } := rfl
@[simp] theorem leaveHandler_port (s : State) : (leaveHandler s).port = s.port := rfl
@[simp] theorem leaveHandler_ser (s : State) : (leaveHandler s).ser = s.ser := rfl
@[simp] theorem leaveHandler_dev (s : State) : (leaveHandler s).dev = s.dev := rfl
@[simp] theorem leaveHandler_setImmMode (s : State) : (leaveHandler s).setImmMode = s.setImmMode := rfl
@[simp] theorem leaveHandler_resetDuty (s : State) : (leaveHandler s).resetDuty = s.resetDuty := rfl
@[simp] theorem leaveHandler_hostQueue (s : State) : (leaveHandler s).hostQueue = s.hostQueue := rfl
@[simp] theorem leaveHandler_schedule (s : State) : (leaveHandler s).schedule = s.schedule := rfl
@[simp] theorem leaveHandler_history (s : State) : (leaveHandler s).history = s.history := rfl
@[simp] theorem leaveHandler_draws (s : State) : (leaveHandler s).draws = s.draws := rfl

@[simp] theorem noteTick_engine (s : State) : (noteTick s).engine = s.engine := rfl
@[simp] theorem noteTick_out (s : State) : (noteTick s).out = s.out := rfl
@[simp] theorem noteTick_arb (s : State) : (noteTick s).arb = s.arb := rfl
@[simp] theorem noteTick_port (s : State) :
    (noteTick s).port = { s.port with immWait := s.port.immWait.map fun w => { w with ticked := true } } := rfl
@[simp] theorem noteTick_ser (s : State) : (noteTick s).ser = s.ser := rfl
@[simp] theorem noteTick_dev (s : State) : (noteTick s).dev = s.dev := rfl
@[simp] theorem noteTick_setImmMode (s : State) : (noteTick s).setImmMode = s.setImmMode := rfl
@[simp] theorem noteTick_resetDuty (s : State) : (noteTick s).resetDuty = s.resetDuty := rfl
@[simp] theorem noteTick_hostQueue (s : State) : (noteTick s).hostQueue = s.hostQueue := rfl
@[simp] theorem noteTick_schedule (s : State) : (noteTick s).schedule = s.schedule := rfl
@[simp] theorem noteTick_history (s : State) : (noteTick s).history = s.history := rfl
@[simp] theorem noteTick_draws (s : State) : (noteTick s).draws = s.draws := rfl

@[simp] theorem scramblePage_engine (s : State) : (scramblePage s).engine = s.engine := by
  simp only [scramblePage]
@[simp] theorem scramblePage_out (s : State) : (scramblePage s).out = s.out := by
  simp only [scramblePage]
@[simp] theorem scramblePage_arb (s : State) : (scramblePage s).arb = s.arb := by
  simp only [scramblePage]
@[simp] theorem scramblePage_port (s : State) : (scramblePage s).port = s.port := by
  simp only [scramblePage]
@[simp] theorem scramblePage_ser (s : State) : (scramblePage s).ser = s.ser := by
  simp only [scramblePage]
@[simp] theorem scramblePage_dev (s : State) :
    (scramblePage s).dev = 
      { s.dev with
        mem := Memory.storeFrom s.dev.mem (s.dev.page * Config.page) 0 (freeBytes s.draws Config.page) } := by
  simp only [scramblePage]
@[simp] theorem scramblePage_setImmMode (s : State) : (scramblePage s).setImmMode = s.setImmMode := by
  simp only [scramblePage]
@[simp] theorem scramblePage_resetDuty (s : State) : (scramblePage s).resetDuty = s.resetDuty := by
  simp only [scramblePage]
@[simp] theorem scramblePage_hostQueue (s : State) : (scramblePage s).hostQueue = s.hostQueue := by
  simp only [scramblePage]
@[simp] theorem scramblePage_schedule (s : State) : (scramblePage s).schedule = s.schedule := by
  simp only [scramblePage]
@[simp] theorem scramblePage_history (s : State) : (scramblePage s).history = s.history := by
  simp only [scramblePage]
@[simp] theorem scramblePage_draws (s : State) : (scramblePage s).draws = s.draws + Config.page := by
  simp only [scramblePage]

@[simp] theorem observe_engine (o : Observation) (s : State) : (observe o s).engine = s.engine := rfl
@[simp] theorem observe_out (o : Observation) (s : State) : (observe o s).out = s.out := rfl
@[simp] theorem observe_arb (o : Observation) (s : State) : (observe o s).arb = s.arb := rfl
@[simp] theorem observe_port (o : Observation) (s : State) : (observe o s).port = s.port := rfl
@[simp] theorem observe_ser (o : Observation) (s : State) : (observe o s).ser = s.ser := rfl
@[simp] theorem observe_dev (o : Observation) (s : State) : (observe o s).dev = s.dev := rfl
@[simp] theorem observe_setImmMode (o : Observation) (s : State) :
    (observe o s).setImmMode = s.setImmMode := rfl
@[simp] theorem observe_resetDuty (o : Observation) (s : State) :
    (observe o s).resetDuty = s.resetDuty := rfl
@[simp] theorem observe_hostQueue (o : Observation) (s : State) :
    (observe o s).hostQueue = s.hostQueue := rfl
@[simp] theorem observe_schedule (o : Observation) (s : State) :
    (observe o s).schedule = s.schedule := rfl
@[simp] theorem observe_history (o : Observation) (s : State) :
    (observe o s).history = o :: s.history := rfl
@[simp] theorem observe_draws (o : Observation) (s : State) : (observe o s).draws = s.draws := rfl

@[simp] theorem startCycle_engine (a : Nat) (m : Memory) (s : State) :
    (startCycle a m s).engine = s.engine := rfl
@[simp] theorem startCycle_out (a : Nat) (m : Memory) (s : State) :
    (startCycle a m s).out = s.out := rfl
@[simp] theorem startCycle_arb (a : Nat) (m : Memory) (s : State) :
    (startCycle a m s).arb = s.arb := rfl
@[simp] theorem startCycle_port (a : Nat) (m : Memory) (s : State) :
    (startCycle a m s).port = s.port := rfl
@[simp] theorem startCycle_ser (a : Nat) (m : Memory) (s : State) :
    (startCycle a m s).ser = s.ser := rfl
@[simp] theorem startCycle_dev (a : Nat) (m : Memory) (s : State) :
    (startCycle a m s).dev = { s.dev with mem := m, busy := true, page := a / Config.page } := rfl
@[simp] theorem startCycle_setImmMode (a : Nat) (m : Memory) (s : State) :
    (startCycle a m s).setImmMode = s.setImmMode := rfl
@[simp] theorem startCycle_resetDuty (a : Nat) (m : Memory) (s : State) :
    (startCycle a m s).resetDuty = s.resetDuty := rfl
@[simp] theorem startCycle_hostQueue (a : Nat) (m : Memory) (s : State) :
    (startCycle a m s).hostQueue = s.hostQueue := rfl
@[simp] theorem startCycle_schedule (a : Nat) (m : Memory) (s : State) :
    (startCycle a m s).schedule = s.schedule := rfl
@[simp] theorem startCycle_history (a : Nat) (m : Memory) (s : State) :
    (startCycle a m s).history = s.history := rfl
@[simp] theorem startCycle_draws (a : Nat) (m : Memory) (s : State) :
    (startCycle a m s).draws = s.draws := rfl

@[simp] theorem cancelRamp_engine (s : State) :
    (cancelRamp s).engine = { s.engine with tag := .idle, cnt := 0 } := rfl
@[simp] theorem cancelRamp_out (s : State) : (cancelRamp s).out = s.out := rfl
@[simp] theorem cancelRamp_arb (s : State) : (cancelRamp s).arb = s.arb := rfl
@[simp] theorem cancelRamp_port (s : State) : (cancelRamp s).port = s.port := rfl
@[simp] theorem cancelRamp_ser (s : State) : (cancelRamp s).ser = s.ser := rfl
@[simp] theorem cancelRamp_dev (s : State) : (cancelRamp s).dev = s.dev := rfl
@[simp] theorem cancelRamp_setImmMode (s : State) : (cancelRamp s).setImmMode = s.setImmMode := rfl
@[simp] theorem cancelRamp_resetDuty (s : State) : (cancelRamp s).resetDuty = s.resetDuty := rfl
@[simp] theorem cancelRamp_hostQueue (s : State) : (cancelRamp s).hostQueue = s.hostQueue := rfl
@[simp] theorem cancelRamp_schedule (s : State) : (cancelRamp s).schedule = s.schedule := rfl
@[simp] theorem cancelRamp_history (s : State) : (cancelRamp s).history = s.history := rfl
@[simp] theorem cancelRamp_draws (s : State) : (cancelRamp s).draws = s.draws := rfl

@[simp] theorem settleDoneStep_engine (s : State) : (settleDoneStep s).engine = s.engine := rfl
@[simp] theorem settleDoneStep_out (s : State) : (settleDoneStep s).out = s.out := rfl
@[simp] theorem settleDoneStep_arb (s : State) : (settleDoneStep s).arb = s.arb := rfl
@[simp] theorem settleDoneStep_port (s : State) : (settleDoneStep s).port = s.port := rfl
@[simp] theorem settleDoneStep_ser (s : State) :
    (settleDoneStep s).ser = { s.ser with phase := .xfer } := rfl
@[simp] theorem settleDoneStep_dev (s : State) :
    (settleDoneStep s).dev = { s.dev with busy := false } := rfl
@[simp] theorem settleDoneStep_setImmMode (s : State) :
    (settleDoneStep s).setImmMode = s.setImmMode := rfl
@[simp] theorem settleDoneStep_resetDuty (s : State) :
    (settleDoneStep s).resetDuty = s.resetDuty := rfl
@[simp] theorem settleDoneStep_hostQueue (s : State) : (settleDoneStep s).hostQueue = s.hostQueue := rfl
@[simp] theorem settleDoneStep_schedule (s : State) : (settleDoneStep s).schedule = s.schedule := rfl
@[simp] theorem settleDoneStep_history (s : State) :
    (settleDoneStep s).history = .settled :: s.history := rfl
@[simp] theorem settleDoneStep_draws (s : State) : (settleDoneStep s).draws = s.draws := rfl

@[simp] theorem takeCommand_engine (q : List HostCommand) (l : List Byte) (s : State) :
    (takeCommand q l s).engine = s.engine := rfl
@[simp] theorem takeCommand_out (q : List HostCommand) (l : List Byte) (s : State) :
    (takeCommand q l s).out = s.out := rfl
@[simp] theorem takeCommand_arb (q : List HostCommand) (l : List Byte) (s : State) :
    (takeCommand q l s).arb = s.arb := rfl
@[simp] theorem takeCommand_port (q : List HostCommand) (l : List Byte) (s : State) :
    (takeCommand q l s).port = { s.port with wdata := l } := rfl
@[simp] theorem takeCommand_ser (q : List HostCommand) (l : List Byte) (s : State) :
    (takeCommand q l s).ser = s.ser := rfl
@[simp] theorem takeCommand_dev (q : List HostCommand) (l : List Byte) (s : State) :
    (takeCommand q l s).dev = s.dev := rfl
@[simp] theorem takeCommand_setImmMode (q : List HostCommand) (l : List Byte) (s : State) :
    (takeCommand q l s).setImmMode = s.setImmMode := rfl
@[simp] theorem takeCommand_resetDuty (q : List HostCommand) (l : List Byte) (s : State) :
    (takeCommand q l s).resetDuty = s.resetDuty := rfl
@[simp] theorem takeCommand_hostQueue (q : List HostCommand) (l : List Byte) (s : State) :
    (takeCommand q l s).hostQueue = q := rfl
@[simp] theorem takeCommand_schedule (q : List HostCommand) (l : List Byte) (s : State) :
    (takeCommand q l s).schedule = s.schedule := rfl
@[simp] theorem takeCommand_history (q : List HostCommand) (l : List Byte) (s : State) :
    (takeCommand q l s).history = s.history := rfl
@[simp] theorem takeCommand_draws (q : List HostCommand) (l : List Byte) (s : State) :
    (takeCommand q l s).draws = s.draws := rfl

/-- The entry changes nothing but the arbiter. -/
theorem enterHandler_eq (s : State) : enterHandler s = { s with arb := (enterHandler s).arb } := by
  unfold enterHandler
  split
  · rfl
  · split
    · rfl
    · split <;> rfl

@[simp] theorem enterHandler_engine (s : State) : (enterHandler s).engine = s.engine := by
  rw [enterHandler_eq]
@[simp] theorem enterHandler_out (s : State) : (enterHandler s).out = s.out := by
  rw [enterHandler_eq]
@[simp] theorem enterHandler_port (s : State) : (enterHandler s).port = s.port := by
  rw [enterHandler_eq]
@[simp] theorem enterHandler_ser (s : State) : (enterHandler s).ser = s.ser := by
  rw [enterHandler_eq]
@[simp] theorem enterHandler_dev (s : State) : (enterHandler s).dev = s.dev := by
  rw [enterHandler_eq]
@[simp] theorem enterHandler_setImmMode (s : State) : (enterHandler s).setImmMode = s.setImmMode := by
  rw [enterHandler_eq]
@[simp] theorem enterHandler_resetDuty (s : State) : (enterHandler s).resetDuty = s.resetDuty := by
  rw [enterHandler_eq]
@[simp] theorem enterHandler_hostQueue (s : State) : (enterHandler s).hostQueue = s.hostQueue := by
  rw [enterHandler_eq]
@[simp] theorem enterHandler_schedule (s : State) : (enterHandler s).schedule = s.schedule := by
  rw [enterHandler_eq]
@[simp] theorem enterHandler_history (s : State) : (enterHandler s).history = s.history := by
  rw [enterHandler_eq]
@[simp] theorem enterHandler_draws (s : State) : (enterHandler s).draws = s.draws := by
  rw [enterHandler_eq]

/-- What the reset step writes, whatever it finds in memory (70 R231). -/
theorem resetRegisters_eq (s : State) :
    resetRegisters s =
      { s with
        engine := { cur := s.resetDuty, tgt := ⟨0, 0, 0, 0⟩, tag := .idle, cnt := 0, fade := 0, hold := 0 }
        out := s.resetDuty
        arb := { pendPwm := false, pendSensor := false, pendRx := false, inService := false }
        port := { s.port with cmdReady := true, immWait := none }
        ser :=
          { phase := .idle, a := Config.freeSerA s.draws, p := Config.freeSerP s.draws,
            n := Config.freeSerN s.draws, buf := Config.freeSerBuf s.draws, single := s.ser.single }
        history :=
          .duty .ch4 s.resetDuty.ch4 :: .duty .ch3 s.resetDuty.ch3 :: .duty .ch2 s.resetDuty.ch2 ::
            .duty .ch1 s.resetDuty.ch1 :: s.history
        draws := s.draws + 1 } := rfl

/-! ### The reset step. Its scrambled page is large when unfolded: use these. -/

@[simp] theorem resetStep_engine (s : State) : (resetStep s).engine =
    { cur := s.resetDuty, tgt := ⟨0, 0, 0, 0⟩, tag := .idle, cnt := 0, fade := 0, hold := 0 } := by
  simp only [resetStep, resetRegisters, clearSerializer_engine, emitAll_engine]
  split <;> simp

@[simp] theorem resetStep_out (s : State) : (resetStep s).out = s.resetDuty := by
  simp only [resetStep, resetRegisters, clearSerializer_out, emitAll_out]
  split <;> simp

@[simp] theorem resetStep_arb (s : State) : (resetStep s).arb =
    { pendPwm := false, pendSensor := false, pendRx := false, inService := false } := by
  simp [resetStep, resetRegisters]

@[simp] theorem resetStep_port (s : State) :
    (resetStep s).port = { s.port with cmdReady := true, immWait := none } := by
  simp only [resetStep, resetRegisters, clearSerializer_port, emitAll_port]
  split <;> simp

@[simp] theorem resetStep_phase (s : State) : (resetStep s).ser.phase = .idle := by
  simp [resetStep, resetRegisters]

/-- Reset keeps the device but for the page of a write cycle it cuts (70 R232, R233). -/
@[simp] theorem resetStep_dev (s : State) :
    (resetStep s).dev = if s.dev.busy then (scramblePage s).dev else s.dev := by
  simp only [resetStep, resetRegisters, clearSerializer_dev, emitAll_dev]
  split <;> rfl

@[simp] theorem resetStep_setImmMode (s : State) : (resetStep s).setImmMode = s.setImmMode := by
  simp only [resetStep, resetRegisters, clearSerializer_setImmMode, emitAll_setImmMode]
  split <;> simp

@[simp] theorem resetStep_resetDuty (s : State) : (resetStep s).resetDuty = s.resetDuty := by
  simp only [resetStep, resetRegisters, clearSerializer_resetDuty, emitAll_resetDuty]
  split <;> simp

@[simp] theorem resetStep_hostQueue (s : State) : (resetStep s).hostQueue = s.hostQueue := by
  simp only [resetStep, resetRegisters, clearSerializer_hostQueue, emitAll_hostQueue]
  split <;> simp

@[simp] theorem resetStep_schedule (s : State) : (resetStep s).schedule = s.schedule := by
  simp only [resetStep, resetRegisters, clearSerializer_schedule, emitAll_schedule]
  split <;> simp

@[simp] theorem resetStep_history (s : State) : (resetStep s).history =
    .duty .ch4 s.resetDuty.ch4 :: .duty .ch3 s.resetDuty.ch3 :: .duty .ch2 s.resetDuty.ch2 ::
      .duty .ch1 s.resetDuty.ch1 :: s.history := by
  simp only [resetStep, resetRegisters, clearSerializer_history, emitAll_history]
  split <;> simp

end Sys2Proof.Machine
end

