-- ==== Sys2Proof/Laws/Ops.lean ====
section
/-! SUPPORT. One lemma for each shared operation that says once what it can do: the sequencing of stops, the
transport calls, the pending vector and the arbiter's entry, the operand arithmetic. -/

namespace Sys2Proof.Machine

/-! ### Sequencing -/

@[simp] theorem andThen_next {α β : Type} (x : α) (k : α → Host.Outcome β Fault Refusal) :
    andThen (.next x) k = k x := rfl

@[simp] theorem andThen_fault {α β : Type} (f : Fault) (k : α → Host.Outcome β Fault Refusal) :
    andThen (.fault f) k = .fault f := rfl

@[simp] theorem andThen_refused {α β : Type} (r : Refusal) (k : α → Host.Outcome β Fault Refusal) :
    andThen (.refused r) k = .refused r := rfl

/-- If a sequence answers next, its first part did. -/
theorem andThen_eq_next {α β : Type} {o : Host.Outcome α Fault Refusal} {k : α → Host.Outcome β Fault Refusal}
    {y : β} (h : andThen o k = .next y) : ∃ x, o = .next x ∧ k x = .next y := by
  cases o with
  | next x => exact ⟨x, rfl, h⟩
  | fault f => cases h
  | refused r => cases h

/-! ### Operands -/

theorem scaleHold_toNat (h : BitVec 16) : (scaleHold h).toNat = 10 * h.toNat := by
  have := h.isLt
  simp only [scaleHold, Config.holdScale, BitVec.toNat_mul, BitVec.toNat_setWidth, BitVec.toNat_ofNat]
  omega

theorem widenFade_toNat (f : BitVec 16) : (widenFade f).toNat = f.toNat := by
  have := f.isLt
  simp only [widenFade, BitVec.toNat_setWidth]
  omega

theorem widenAddress_toNat (a : BitVec 16) : (widenAddress a).toNat = a.toNat := by
  have := a.isLt
  simp only [widenAddress, BitVec.toNat_setWidth]
  omega

theorem moveToward_up {c t : Byte} (h : c.toNat < t.toNat) : (moveToward c t).toNat = c.toNat + 1 := by
  have := t.isLt
  have h1 : (1 : Byte).toNat = 1 := rfl
  simp only [moveToward, h, if_true, BitVec.toNat_add, h1]
  omega

theorem moveToward_down {c t : Byte} (h : t.toNat < c.toNat) : (moveToward c t).toNat = c.toNat - 1 := by
  have hc := c.isLt
  have hn : ¬c.toNat < t.toNat := by omega
  have h1 : (1 : Byte).toNat = 1 := rfl
  simp only [moveToward, hn, h, if_true, if_false, BitVec.toNat_sub, h1]
  omega

@[simp] theorem moveToward_self (c : Byte) : moveToward c c = c := by simp [moveToward]

theorem inRange_iff (a n : Nat) : inRange a n = true ↔ n = 0 ∨ a + n ≤ Config.cap := by
  simp [inRange]

/-- A chunk is never longer than what is left and never leaves its page (41 R159, R160). -/
theorem chunk_bounds (a n : Nat) : chunk a n ≤ n ∧ a % Config.page + chunk a n ≤ Config.page := by
  simp only [chunk, Config.page]
  omega

theorem chunk_pos {a n : Nat} (h : 0 < n) : 0 < chunk a n := by
  simp only [chunk, Config.page]
  omega

theorem chunk_le_page (a n : Nat) : chunk a n ≤ Config.page := by
  simp only [chunk, Config.page]
  omega

@[simp] theorem freeBytes_length (d k : Nat) : (freeBytes d k).length = k := by
  induction k generalizing d with
  | zero => rfl
  | succ k ih => simp [freeBytes, ih]

@[simp] theorem storedBytes_length (bytes : List Byte) (s : State) :
    (storedBytes bytes s).length = bytes.length := by
  unfold storedBytes
  split <;> simp

@[simp] theorem readAnswer_length (a n : Nat) (s : State) : (readAnswer a n s).length = n := by
  unfold readAnswer
  split <;> simp

/-! ### The arbiter -/

@[simp] theorem pending_pwm (s : State) : (pending s)[0] = s.arb.pendPwm := by
  unfold pending
  cases s.arb.pendPwm <;> cases s.arb.pendSensor <;> cases s.arb.pendRx <;> rfl

@[simp] theorem pending_sensor (s : State) : (pending s)[1] = s.arb.pendSensor := by
  unfold pending
  cases s.arb.pendPwm <;> cases s.arb.pendSensor <;> cases s.arb.pendRx <;> rfl

@[simp] theorem pending_rx (s : State) : (pending s)[2] = s.arb.pendRx := by
  unfold pending
  cases s.arb.pendPwm <;> cases s.arb.pendSensor <;> cases s.arb.pendRx <;> rfl

/-- The handler the arbiter selects (60 R204). -/
theorem decodeEvents_pending (s : State) :
    decodeEvents (pending s) =
      if s.arb.pendPwm then some .onTick
      else if s.arb.pendSensor then some .sensorHandler
      else if s.arb.pendRx then some .rxHandler
      else none := by
  simp [decodeEvents]

/-! ### Transport -/

/-- What `devicePresent()` can do. -/
theorem transportPresent_next {s : State} {b : Bool} {t : State} (h : transportPresent s = .next (b, t)) :
    s.dev.busy = false ∧ b = s.dev.present ∧ t = observe (.devicePresent s.dev.present) s := by
  unfold transportPresent at h
  split at h
  · cases h
  · rename_i hb
    cases h
    exact ⟨by simpa using hb, rfl, rfl⟩

/-- What `get` can do. -/
theorem transportGet_next {a : Nat} {s t : State} {v : Byte} (h : transportGet a s = .next (v, t)) :
    a < Config.cap ∧ s.dev.busy = false ∧
      v = (if s.dev.present then Memory.read s.dev.mem a else Config.freeByte s.draws) ∧
      t = observe (.get a v) (countDraws (drawsOf 1 s) s) := by
  unfold transportGet at h
  split at h
  · rename_i hr
    split at h
    · cases h
    · rename_i hb
      cases h
      have := (inRange_iff a 1).mp hr
      exact ⟨by omega, by simpa using hb, rfl, rfl⟩
  · cases h

/-- What `getBuffer` can do. -/
theorem transportGetBuffer_next {a n : Nat} {s t : State} {v : List Byte}
    (h : transportGetBuffer a n s = .next (v, t)) :
    inRange a n = true ∧ s.dev.busy = false ∧ v = readAnswer a n s ∧
      t = observe (.getBuffer a n v) (countDraws (drawsOf n s) s) := by
  unfold transportGetBuffer at h
  split at h
  · rename_i hr
    split at h
    · cases h
    · rename_i hb
      cases h
      exact ⟨hr, by simpa using hb, rfl, rfl⟩
  · cases h

/-- What `send` can do. -/
theorem transportSend_next {a : Nat} {v : Byte} {s t : State} (h : transportSend a v s = .next t) :
    a < Config.cap ∧ s.dev.busy = false ∧
      t = observe (.send a v)
        (countDraws (drawsOf 1 s) (startCycle a (Memory.storeFrom s.dev.mem a 0 (storedBytes [v] s)) s)) := by
  unfold transportSend at h
  split at h
  · rename_i hr
    split at h
    · cases h
    · rename_i hb
      cases h
      have := (inRange_iff a 1).mp hr
      exact ⟨by omega, by simpa using hb, rfl⟩
  · cases h

/-- What `sendBuffer` can do. -/
theorem transportSendBuffer_next {a : Nat} {v : List Byte} {s t : State}
    (h : transportSendBuffer a v s = .next t) :
    v ≠ [] ∧ a < Config.cap ∧ s.dev.busy = false ∧
      t = observe (.sendBuffer a v)
        (countDraws (drawsOf v.length s) (startCycle a (Memory.storeFrom s.dev.mem a 0 (storedBytes v s)) s)) := by
  unfold transportSendBuffer at h
  split at h
  · cases h
  · rename_i hne
    split at h
    · rename_i hr
      split at h
      · cases h
      · rename_i hb
        cases h
        have := (inRange_iff a 1).mp hr
        exact ⟨by simpa using hne, by omega, by simpa using hb, rfl⟩
    · cases h

/-- `sendBuffer` of at least one byte in range to a device that is not busy answers. -/
theorem transportSendBuffer_of {a : Nat} {v : List Byte} {s : State} (hv : v ≠ []) (ha : a < Config.cap)
    (hb : s.dev.busy = false) :
    transportSendBuffer a v s =
      .next (observe (.sendBuffer a v)
        (countDraws (drawsOf v.length s)
          (startCycle a (Memory.storeFrom s.dev.mem a 0 (storedBytes v s)) s))) := by
  have hr : inRange a 1 = true := (inRange_iff a 1).mpr (by omega)
  have he : v.isEmpty = false := by simpa using hv
  simp [transportSendBuffer, hr, hb, he]

/-- `send` in range to a device that is not busy answers. -/
theorem transportSend_of {a : Nat} {v : Byte} {s : State} (ha : a < Config.cap) (hb : s.dev.busy = false) :
    transportSend a v s =
      .next (observe (.send a v)
        (countDraws (drawsOf 1 s) (startCycle a (Memory.storeFrom s.dev.mem a 0 (storedBytes [v] s)) s))) := by
  have hr : inRange a 1 = true := (inRange_iff a 1).mpr (by omega)
  simp [transportSend, hr, hb]

/-! ### The schedule -/

theorem step_nil {s : State} (h : s.schedule = []) : step s = .next s := by
  simp [step, runSchedule, h]

/-- A step is the move of the agent scheduled first. -/
theorem step_cons {s : State} {m : Move} {rest : List Move} (h : s.schedule = m :: rest) :
    step s = runMove m { s with schedule := rest } := by
  simp [step, runSchedule, h]

/-- Every step is either no move at all or one agent's move. -/
theorem step_cases {s t : State} (h : step s = .next t) :
    (s.schedule = [] ∧ t = s) ∨
      ∃ m rest, s.schedule = m :: rest ∧ runMove m { s with schedule := rest } = .next t := by
  cases hs : s.schedule with
  | nil =>
    rw [step_nil hs] at h
    cases h
    exact .inl ⟨rfl, rfl⟩
  | cons m rest =>
    rw [step_cons hs] at h
    exact .inr ⟨m, rest, rfl, h⟩

end Sys2Proof.Machine
end

