-- ==== Sys2Proof/Laws/PerInstr.lean ====
section
/-! SUPPORT. The per-instruction family EncodesInItsRow: the word an instruction encodes to is in its own row of
the opcode map (spec/30_encoding.md R99), an event's vector has its own line set (R102). -/

namespace Sys2Proof.Laws.EncodesInItsRow

/-- The command word of an encoding is hit by this row. -/
def InRow (r : OpRow) (p : PortInput) : Prop := ∃ w stream, p = .command w stream ∧ r.hits w = true

/-- The event vector of an encoding is exactly this line. -/
def OnLine (k : Nat) (p : PortInput) : Prop := ∃ ev : EventLines, p = .event ev ∧ ev.toNat = 2 ^ k

/-- The encoding of an instruction stands in the row of its mnemonic. -/
def Statement : Instr → Prop
  | .setImmediate d1 d2 d3 d4 => InRow rowSetImmediate (encode (.setImmediate d1 d2 d3 d4))
  | .beginRamp t1 t2 t3 t4 f h => InRow rowBeginRamp (encode (.beginRamp t1 t2 t3 t4 f h))
  | .isBusy => InRow rowIsBusy (encode .isBusy)
  | .probe => InRow rowProbe (encode .probe)
  | .capacity => InRow rowCapacity (encode .capacity)
  | .readByte a => InRow rowReadByte (encode (.readByte a))
  | .readBuffer a n => InRow rowReadBuffer (encode (.readBuffer a n))
  | .writeByte a v => InRow rowWriteByte (encode (.writeByte a v))
  | .writeBuffer a bytes => InRow rowWriteBuffer (encode (.writeBuffer a bytes))
  | .onTick => OnLine 0 (encode .onTick)
  | .sensorHandler => OnLine 1 (encode .sensorHandler)
  | .rxHandler => OnLine 2 (encode .rxHandler)

theorem setImmediate (d1 d2 d3 d4 : Byte) : Statement (.setImmediate d1 d2 d3 d4) := by
  refine ⟨_, _, rfl, (OpRow.hits_iff _ _).mpr fun k hk => ?_⟩
  rw [wordR_getLsbD]
  interval_cases k <;> simp [rowSetImmediate]

theorem beginRamp (t1 t2 t3 t4 : Byte) (f h : BitVec 16) : Statement (.beginRamp t1 t2 t3 t4 f h) := by
  refine ⟨_, _, rfl, (OpRow.hits_iff _ _).mpr fun k hk => ?_⟩
  rw [wordR_getLsbD]
  interval_cases k <;> simp [rowBeginRamp]

theorem isBusy : Statement .isBusy := ⟨_, _, rfl, by decide⟩

theorem probe : Statement .probe := ⟨_, _, rfl, by decide⟩

theorem capacity : Statement .capacity := ⟨_, _, rfl, by decide⟩

theorem readByte (a : BitVec 16) : Statement (.readByte a) := by
  refine ⟨_, _, rfl, (OpRow.hits_iff _ _).mpr fun k hk => ?_⟩
  rw [wordM_getLsbD]
  interval_cases k <;> simp [rowReadByte]

theorem readBuffer (a n : BitVec 16) : Statement (.readBuffer a n) := by
  refine ⟨_, _, rfl, (OpRow.hits_iff _ _).mpr fun k hk => ?_⟩
  rw [wordM_getLsbD]
  interval_cases k <;> simp [rowReadBuffer]

theorem writeByte (a : BitVec 16) (v : Byte) : Statement (.writeByte a v) := by
  refine ⟨_, _, rfl, (OpRow.hits_iff _ _).mpr fun k hk => ?_⟩
  rw [wordM_getLsbD]
  interval_cases k <;> simp [rowWriteByte]

theorem writeBuffer (a : BitVec 16) (bytes : List Byte) : Statement (.writeBuffer a bytes) := by
  refine ⟨_, _, rfl, (OpRow.hits_iff _ _).mpr fun k hk => ?_⟩
  rw [wordM_getLsbD]
  interval_cases k <;> simp [rowWriteBuffer]

theorem onTick : Statement .onTick := ⟨_, rfl, rfl⟩

theorem sensorHandler : Statement .sensorHandler := ⟨_, rfl, rfl⟩

theorem rxHandler : Statement .rxHandler := ⟨_, rfl, rfl⟩

end Sys2Proof.Laws.EncodesInItsRow
end

