-- ==== Sys2Proof/Laws/Runs.lean ====
section
/-! SUPPORT. What a step of a fed run is, and the moves that no state stops. -/

namespace Sys2Proof.Machine

@[simp] theorem feed_engine (i : Input) (s : State) : (feed i s).engine = s.engine := rfl
@[simp] theorem feed_out (i : Input) (s : State) : (feed i s).out = s.out := rfl
@[simp] theorem feed_arb (i : Input) (s : State) : (feed i s).arb = s.arb := rfl
@[simp] theorem feed_port (i : Input) (s : State) : (feed i s).port = s.port := rfl
@[simp] theorem feed_ser (i : Input) (s : State) : (feed i s).ser = s.ser := rfl
@[simp] theorem feed_dev (i : Input) (s : State) : (feed i s).dev = s.dev := rfl
@[simp] theorem feed_setImmMode (i : Input) (s : State) : (feed i s).setImmMode = s.setImmMode := rfl
@[simp] theorem feed_resetDuty (i : Input) (s : State) : (feed i s).resetDuty = s.resetDuty := rfl
@[simp] theorem feed_hostQueue (i : Input) (s : State) : (feed i s).hostQueue = s.hostQueue ++ i.offered := rfl
@[simp] theorem feed_schedule (i : Input) (s : State) : (feed i s).schedule = [i.move] := rfl
@[simp] theorem feed_history (i : Input) (s : State) : (feed i s).history = s.history := rfl
@[simp] theorem feed_draws (i : Input) (s : State) : (feed i s).draws = s.draws := rfl

/-- A step of a fed state is the move of its input. -/
theorem step_feed (i : Input) (s : State) :
    step (feed i s) = runMove i.move { s with schedule := [], hostQueue := s.hostQueue ++ i.offered } := rfl

/-- The three handlers answer in every state. -/
theorem handler_next {i : Instr} (h : i = .onTick ∨ i = .sensorHandler ∨ i = .rxHandler) (s : State) :
    ∃ t, exec i s = .next t := by
  rcases h with rfl | rfl | rfl <;> exact ⟨_, rfl⟩

/-- The arbiter selects a handler and nothing else. -/
theorem decodeEvents_handler {ev : EventLines} {i : Instr} (h : decodeEvents ev = some i) :
    i = .onTick ∨ i = .sensorHandler ∨ i = .rxHandler := by
  unfold decodeEvents at h
  split at h
  · exact .inl (Option.some.inj h).symm
  · split at h
    · exact .inr (.inl (Option.some.inj h).symm)
    · split at h
      · exact .inr (.inr (Option.some.inj h).symm)
      · cases h

/-- An entry move stops in no state. -/
theorem entryMove_next (s : State) : ∃ t, runMove .entry s = .next t := by
  simp only [runMove, entryMove]
  split
  · exact ⟨_, rfl⟩
  · split
    · rename_i i h
      exact handler_next (decodeEvents_handler h) _
    · exact ⟨_, rfl⟩

end Sys2Proof.Machine
end

