-- ==== Sys2Proof/Tests/Slice0.lean ====
section
/-! SUPPORT. Small tests. The expected results are those of spec/95_test_vectors.md (V1 to V18, P1 to P4) and of the
examples in the rules of spec/40 and spec/41; the last part shows, for each statement with hypotheses, a concrete
state and operands that meet them. -/

namespace Sys2Proof.Tests

open Sys2Proof Sys2Proof.Machine

/-! ### Helpers -/

/-- What a test reads of the next state. -/
def seen {α : Type} (f : State → α) : Host.Outcome State Fault Refusal → Option α
  | .next t => some (f t)
  | .fault _ => none
  | .refused _ => none

/-- The reason of a refusal. -/
def refusal : Host.Outcome State Fault Refusal → Option Refusal
  | .refused r => some r
  | .next _ => none
  | .fault _ => none

/-- The reason of a fault. -/
def faulted : Host.Outcome State Fault Refusal → Option Fault
  | .fault f => some f
  | .next _ => none
  | .refused _ => none

/-- The reset state with this engine and its duties in effect. -/
def withEngine (e : Engine) : State := { State.reset with engine := e, out := e.cur }

/-- V1 at the end of tick 4: `Fading`, `cnt` 0. -/
def fadingV1 : State :=
  withEngine { cur := ⟨1, 1, 0, 1⟩, tgt := ⟨3, 1, 0, 2⟩, tag := .fading, cnt := 0, fade := 2, hold := 10 }

/-- V9 after tick 2: `Holding`, `cnt` 28. -/
def holdingV9 : State :=
  withEngine { cur := ⟨1, 0, 0, 0⟩, tgt := ⟨1, 0, 0, 0⟩, tag := .holding, cnt := 28, fade := 0, hold := 30 }

/-- A hold about to end. -/
def holdingEnd : State := withEngine { holdingV9.engine with cnt := 0 }

/-- The state in the middle of a `WriteBuffer`, ready to transfer. -/
def sending (a : BitVec 17) (p n : BitVec 16) (buf : List Byte) (single : Bool) : State :=
  { State.reset with
    port := { State.reset.port with cmdReady := false }
    ser := { phase := .xfer, a := a, p := p, n := n, buf := buf, single := single } }

/-- The same while its transaction settles. -/
def settlingOf (s : State) : State :=
  { s with ser := { s.ser with phase := .settle }, dev := { s.dev with busy := true } }

/-- The five bytes of V16, V18 and P2. -/
def fiveBytes : List Byte := [0x11, 0x22, 0x33, 0x44, 0x55]

/-- V18 at its first transfer. -/
def sendingV18 : State := sending 62 0 5 fiveBytes false

/-- A `WriteByte` at its transfer (V14). -/
def sendingV14 : State := sending 0x7FFF 0 1 [0xA5] true

/-- A state whose device holds these bytes. -/
def withMemory (m : Memory) : State := { State.reset with dev := { State.reset.dev with mem := m } }

/-- The bytes 60 to 67 of V15, `mem[a] = a mod 256`. -/
def memoryV15 : Memory :=
  [(60, 60), (61, 61), (62, 62), (63, 63), (64, 64), (65, 65), (66, 66), (67, 67), (0x140, 0x40)]

/-- A state in the two-phase form of `SetImmediate`. -/
def twoPhase (s : State) : State := { s with setImmMode := .twoPhase }

/-- A state behind whose transport no device answers. -/
def unplugged (s : State) : State := { s with dev := { s.dev with present := false } }

/-- A state whose device is in its write cycle. -/
def writing (s : State) : State := { s with dev := { s.dev with busy := true } }

/-- The host about to issue this word, with these bytes for it. -/
def issuing (w : CmdWord) (payload : List Byte) (s : State) : State :=
  { s with hostQueue := [⟨w, payload⟩], schedule := [.host] }

/-- These events pending and the arbiter next. -/
def pendingState (pwm sensor rx : Bool) (s : State) : State :=
  { s with
    arb := { pendPwm := pwm, pendSensor := sensor, pendRx := rx, inService := false }
    schedule := [.entry] }

/-- This move next. -/
def next (m : Move) (s : State) : State := { s with schedule := [m] }

/-- The states of the machine fed with these inputs, standing still where it stops. -/
def follow (inputs : Nat → Input) (s : State) : Nat → State
  | 0 => s
  | n + 1 =>
    match step (feed (inputs n) (follow inputs s n)) with
    | .next t => t
    | .fault _ => follow inputs s n
    | .refused _ => follow inputs s n

theorem follow_isRun {inputs : Nat → Input} {s : State}
    (h : ∀ n, ∃ t, step (feed (inputs n) (follow inputs s n)) = .next t) : IsRun inputs (follow inputs s) := by
  intro n
  obtain ⟨t, ht⟩ := h n
  simp only [follow, ht]

/-- Two moves in turn, for ever. -/
def alternate (m m' : Move) (n : Nat) : Input := ⟨if n % 2 = 0 then m else m', []⟩

theorem alternate_first (m m' : Move) (n : Nat) : (alternate m m' (2 * n)).move = m := by simp [alternate]

theorem alternate_second (m m' : Move) (n : Nat) : (alternate m m' (2 * n + 1)).move = m' := by
  simp only [alternate, Nat.mul_add_mod]
  rfl

/-! ### Well-formedness: the one check, and the term it refuses (41 R158) -/

theorem test_wellFormed_refuses_65536_bytes (a : BitVec 16) :
    (Instr.writeBuffer a (List.replicate 65536 0)).wellFormed = false := by
  simp only [Instr.wellFormed, List.length_replicate]
  decide

theorem test_wellFormed_accepts_65535_bytes (a : BitVec 16) :
    (Instr.writeBuffer a (List.replicate 65535 0)).wellFormed = true := by
  simp only [Instr.wellFormed, List.length_replicate]
  decide

/-! ### Decoding: a word written out from 30 R92 and R100 for every constructor (V11) -/

theorem test_decode_setImmediate :
    decode (.command 0x01FF80000700000000 [9]) = .ok (.setImmediate 255 128 0 7, [9]) := by rfl

theorem test_decode_beginRamp :
    decode (.command 0x020301000200020001 []) = .ok (.beginRamp 3 1 0 2 2 1, []) := by rfl

theorem test_decode_beginRamp_all_ones :
    decode (.command 0x02FFFFFFFFFFFFFFFF []) = .ok (.beginRamp 255 255 255 255 65535 65535, []) := by rfl

theorem test_decode_isBusy : decode (.command 0x030000000000000000 []) = .ok (.isBusy, []) := by rfl

theorem test_decode_probe : decode (.command 0x100000000000000000 []) = .ok (.probe, []) := by rfl

theorem test_decode_capacity : decode (.command 0x110000000000000000 []) = .ok (.capacity, []) := by rfl

theorem test_decode_readByte :
    decode (.command 0x127FFF000000000000 []) = .ok (.readByte 0x7FFF, []) := by rfl

theorem test_decode_readBuffer :
    decode (.command 0x130064009600000000 []) = .ok (.readBuffer 100 150, []) := by rfl

theorem test_decode_writeByte :
    decode (.command 0x147FFF0000A5000000 []) = .ok (.writeByte 0x7FFF 0xA5, []) := by rfl

theorem test_decode_writeBuffer :
    decode (.command 0x15003E000500000000 (fiveBytes ++ [7])) = .ok (.writeBuffer 62 fiveBytes, [7]) := by rfl

/-- Bit 0 the tick, bit 1 the sensor, bit 2 byte received, the tick first of all (30 R102, 60 R204). -/
theorem test_decode_events :
    decode (.event 1) = .ok (.onTick, []) ∧ decode (.event 2) = .ok (.sensorHandler, []) ∧
      decode (.event 4) = .ok (.rxHandler, []) ∧ decode (.event 6) = .ok (.sensorHandler, []) ∧
      decode (.event 7) = .ok (.onTick, []) ∧ decode (.event 0) = .error .noEvent := ⟨rfl, rfl, rfl, rfl, rfl, rfl⟩

/-- The reserved words of V11. -/
theorem test_decode_reserved :
    decode (.command 0x000000000000000000 []) = .error .reservedOpcode ∧
      decode (.command 0x040000000000000000 []) = .error .reservedOpcode ∧
      decode (.command 0x010000000000000001 []) = .error .reservedField ∧
      decode (.command 0x030000000000000100 []) = .error .reservedField ∧
      decode (.command 0x127FFF000100000000 []) = .error .reservedField ∧
      decode (.command 0x130064009601000000 []) = .error .reservedField ∧
      decode (.command 0x150064009600000001 []) = .error .reservedField :=
  ⟨rfl, rfl, rfl, rfl, rfl, rfl, rfl⟩

theorem test_decode_short_payload :
    decode (.command 0x15003E000500000000 [1, 2, 3, 4]) = .error .payloadShort := by rfl

theorem test_encode_writeByte : encode (.writeByte 0x7FFF 0xA5) = .command 0x147FFF0000A5000000 [] := by decide

theorem test_table_words :
    decodeTableWord 72 0x020301000200020001 = some (.beginRamp 3 1 0 2 2 1) ∧
      decodeTableWord 72 0x150005000200000000 = some (.writeBuffer 5 [0, 0]) ∧
      decodeTableWord 8 1 = some .onTick ∧ decodeTableWord 8 2 = some .sensorHandler ∧
      decodeTableWord 8 4 = some .rxHandler ∧ decodeTableWord 72 0 = none := ⟨rfl, rfl, rfl, rfl, rfl, rfl⟩

/-- A placed command word is the first to run from reset. -/
theorem test_fetch_word :
    seen (fun t => (t.engine.tag, t.engine.cnt, t.schedule))
      (step (State.reset.withFetchWord 72 0x020301000200020001)) = some (.fading, 2, []) := by decide

/-- A placed event vector is served by the next step. -/
theorem test_fetch_event :
    seen (fun t => (t.engine.cur, t.engine.cnt, t.arb)) (step (fadingV1.withFetchWord 8 1)) =
      some (⟨2, 1, 0, 2⟩, 1, ⟨false, false, false, false⟩) := by decide

/-! ### The ramp engine -/

/-- V8 (a): the registers that stay, stay. -/
theorem test_setImmediate_cancels_fade :
    seen (fun t => (t.engine, t.out)) (exec (.setImmediate 1 2 3 4) fadingV1) =
      some ({ cur := ⟨1, 2, 3, 4⟩, tgt := ⟨3, 1, 0, 2⟩, tag := .idle, cnt := 0, fade := 2, hold := 10 },
        ⟨1, 2, 3, 4⟩) := by decide

/-- 40 R122: between the phases nothing is emitted, the host is blocked, and phase B waits for a tick. -/
theorem test_setImmediate_two_phases :
    seen (fun t => (t.out, t.engine.tag, t.port.cmdReady)) (exec (.setImmediate 1 2 3 4) (twoPhase fadingV1)) =
        some (⟨1, 1, 0, 1⟩, .idle, false) ∧
      seen (fun t => (t.out, t.port.cmdReady, t.port.rsp))
          (andThen (exec (.setImmediate 1 2 3 4) (twoPhase fadingV1)) (runMoves [.raise 1, .entry, .applyImmediate])) =
        some (⟨1, 2, 3, 4⟩, true, 0) := by decide

/-- V11: `hold = 655350`. -/
theorem test_beginRamp_scales_hold :
    seen (fun t => t.engine) (exec (.beginRamp 255 255 255 255 65535 65535) State.reset) =
      some { cur := ⟨0, 0, 0, 0⟩, tgt := ⟨255, 255, 255, 255⟩, tag := .fading, cnt := 65535, fade := 65535,
             hold := 655350 } := by decide

/-- P4, step 5: dropped, and the response does not show it. -/
theorem test_beginRamp_dropped :
    seen (fun t => (t.engine, t.port.rsp, t.history)) (exec (.beginRamp 9 9 9 9 0 0) fadingV1) =
      some (fadingV1.engine, 0, [.response 0 []]) := by decide

/-- V10. -/
theorem test_isBusy :
    seen (fun t => t.port.rsp) (exec .isBusy holdingV9) = some 1 ∧
      seen (fun t => t.port.rsp) (exec .isBusy State.reset) = some 0 := by decide

/-- V8 (b): fade step 2 of V1. -/
theorem test_onTick_fade_step :
    seen (fun t => (t.engine.cur, t.engine.tag, t.engine.cnt, t.out)) (exec .onTick fadingV1) =
      some (⟨2, 1, 0, 2⟩, .fading, 1, ⟨2, 1, 0, 2⟩) := by decide

/-- V6, tick 2: one unit at the ends of the range, then `Holding` with `cnt` 0. -/
theorem test_onTick_ends_of_range :
    seen (fun t => (t.engine.cur, t.engine.tag, t.engine.cnt))
        (exec .onTick (withEngine { cur := ⟨255, 0, 1, 254⟩, tgt := ⟨254, 1, 0, 255⟩, tag := .fading, cnt := 0,
                                    fade := 1, hold := 0 })) =
      some (⟨254, 1, 0, 255⟩, .holding, 0) := by decide

/-! ### The arbiter -/

/-- V12, entry 1: only the tick's flag is cleared, and the tick runs. -/
theorem test_entry_serves_tick_first :
    seen (fun t => (t.arb, t.engine.cur)) (step (pendingState true true true fadingV1)) =
      some (⟨false, true, true, false⟩, ⟨2, 1, 0, 2⟩) := by decide

theorem test_sensorHandler :
    seen (fun t => (t.arb, t.engine, t.out)) (step (pendingState false true true fadingV1)) =
      some (⟨false, false, true, false⟩, fadingV1.engine, fadingV1.out) := by decide

theorem test_rxHandler :
    seen (fun t => (t.arb, t.engine, t.out)) (step (pendingState false false true fadingV1)) =
      some (⟨false, false, false, false⟩, fadingV1.engine, fadingV1.out) := by decide

/-- V12: raised twice before an entry, the tick is pending once. -/
theorem test_raise_merges :
    seen (fun t => t.arb) (runMoves [.raise 1, .raise 1, .entry] State.reset) =
      some ⟨false, false, false, false⟩ := by decide

/-! ### The serializer and the device -/

/-- P2, step 1, and V17. -/
theorem test_probe :
    seen (fun t => (t.port.rsp, t.history)) (exec .probe State.reset) =
        some (1, [.response 1 [], .devicePresent true]) ∧
      seen (fun t => t.port.rsp) (exec .probe (unplugged State.reset)) = some 0 := by decide

/-- P2, step 2: no transaction. -/
theorem test_capacity :
    seen (fun t => (t.port.rsp, t.history)) (exec .capacity (unplugged State.reset)) =
      some (0x8000, [.response 0x8000 []]) := by decide

/-- V15. -/
theorem test_readByte :
    seen (fun t => (t.port.rsp, t.history)) (exec (.readByte 0x0140) (withMemory memoryV15)) =
      some (0x0040, [.response 0x0040 [], .get 0x140 0x40]) := by decide

/-- V17: out of range. -/
theorem test_readByte_out_of_range : refusal (exec (.readByte 0x8000) State.reset) = some .outOfRange := by decide

/-- V15: one `getBuffer` across the page boundary. -/
theorem test_readBuffer :
    seen (fun t => (t.port.rsp, t.port.rdata, t.history.length)) (exec (.readBuffer 60 8) (withMemory memoryV15)) =
      some (0, [60, 61, 62, 63, 64, 65, 66, 67], 2) := by decide

/-- V17: zero bytes are in range anywhere. -/
theorem test_readBuffer_empty :
    seen (fun t => (t.port.rdata, t.history)) (exec (.readBuffer 40000 0) State.reset) =
      some ([], [.response 0 [], .getBuffer 40000 0 []]) := by decide

/-- V14: `send(0x7FFF, 0xA5)` and its settle. -/
theorem test_writeByte :
    seen (fun t => (t.port.cmdReady, t.ser == sendingV14.ser)) (exec (.writeByte 0x7FFF 0xA5) State.reset) =
        some (false, true) ∧
      seen (fun t => (Memory.read t.dev.mem 0x7FFF, t.ser.phase, t.history)) (runMove .transfer sendingV14) =
        some (0xA5, .settle, [.send 0x7FFF 0xA5]) := by decide

/-- V17. -/
theorem test_writeByte_out_of_range :
    refusal (exec (.writeByte 0x8000 1) State.reset) = some .outOfRange := by decide

/-- V18, first transfer. -/
theorem test_writeBuffer_first_chunk :
    seen (fun t => (t.ser.phase, t.ser.a, t.ser.p, t.ser.n, t.history)) (runMove .transfer sendingV18) =
      some (.settle, 64, 2, 3, [.sendBuffer 62 [0x11, 0x22]]) := by decide

/-- V18, last rows: completion. -/
theorem test_writeBuffer_completes :
    seen (fun t => (t.ser.phase, t.port.cmdReady, t.port.rsp)) (runMove .transfer (sending 67 5 0 fiveBytes false)) =
      some (.idle, true, 0) := by decide

/-- V16: the wrap of the device under a transaction that crosses its page. -/
theorem test_device_wraps :
    seen (fun t => t.dev.mem) (transportSendBuffer 62 fiveBytes State.reset) =
      some [(0, 0x33), (1, 0x44), (2, 0x55), (62, 0x11), (63, 0x22)] := by decide

/-- 70 R231: the engine, the flags and the port; 70 R233: the device stays busy. -/
theorem test_reset_step :
    seen (fun t => (t.engine.tag, t.engine.tgt, t.arb.pendRx, t.port.cmdReady, t.ser.phase, t.dev.busy))
        (runMove .reset (settlingOf sendingV18)) =
      some (.idle, ⟨0, 0, 0, 0⟩, false, true, .idle, true) := by decide

/-- Writing what an unlisted byte reads as removes the entry. -/
theorem test_memory_canonical : Memory.write [(5, 1)] 5 Config.unlistedByte = [] := by decide

/-! ### Witnesses: a concrete state and operands for the hypotheses of each statement -/

theorem test_witness_DecodeEncodeRoundTrip :
    (Instr.writeBuffer 62 fiveBytes).WellFormed ∧ Instr.isBusy.WellFormed ∧
      encode .isBusy = .command 0x030000000000000000 [] ∧
      encode (.writeBuffer 62 fiveBytes) = .command 0x15003E000500000000 fiveBytes := by decide

theorem test_witness_EncodeDecodedCommand :
    decode (.command 0x15003E000300000000 [1, 2, 3, 4]) = .ok (.writeBuffer 62 [1, 2, 3], [4]) := by rfl

theorem test_witness_ReservedWordsRefused :
    let s := issuing 0x040000000000000000 [] State.reset
    let t := issuing 0x030000000000000100 [] State.reset
    s.schedule = .host :: [] ∧ s.hostQueue = ⟨0x040000000000000000, []⟩ :: [] ∧ s.port.cmdReady = true ∧
      (∀ r ∈ opcodeMap, r.hits 0x040000000000000000 = false) ∧
      t.schedule = .host :: [] ∧ t.hostQueue = ⟨0x030000000000000100, []⟩ :: [] ∧ t.port.cmdReady = true ∧
      (∀ r ∈ opcodeMap, r.hits 0x030000000000000100 = false) := by decide

theorem test_witness_ShortPayloadRefused :
    let s := issuing (wordM 0x15 62 5 0) [1, 2, 3, 4] State.reset
    s.schedule = .host :: [] ∧ s.hostQueue = ⟨wordM 0x15 62 5 0, [1, 2, 3, 4]⟩ :: [] ∧ s.port.cmdReady = true ∧
      s.port.wdata.length + [1, 2, 3, 4].length < (5 : BitVec 16).toNat := by decide

theorem test_witness_StepRunsIssuedCommand :
    let s := issuing 0x030000000000000000 [] State.reset
    s.schedule = .host :: [] ∧ s.hostQueue = ⟨0x030000000000000000, []⟩ :: [] ∧ s.port.cmdReady = true ∧
      decode (.command 0x030000000000000000 (s.port.wdata ++ [])) = .ok (.isBusy, []) :=
  ⟨rfl, rfl, rfl, rfl⟩

theorem test_witness_EntryServesOneEventByPriority :
    let a := pendingState true true true State.reset
    let b := pendingState false true true State.reset
    let c := pendingState false false true State.reset
    let d := pendingState false false false State.reset
    let e := next .entry { State.reset with arb := ⟨true, false, false, true⟩ }
    (a.schedule = .entry :: [] ∧ a.arb.inService = false ∧ a.arb.pendPwm = true) ∧
      (b.schedule = .entry :: [] ∧ b.arb.inService = false ∧ b.arb.pendPwm = false ∧ b.arb.pendSensor = true) ∧
      (c.schedule = .entry :: [] ∧ c.arb.inService = false ∧ c.arb.pendPwm = false ∧ c.arb.pendSensor = false ∧
        c.arb.pendRx = true) ∧
      (d.schedule = .entry :: [] ∧ d.arb.pendPwm = false ∧ d.arb.pendSensor = false ∧ d.arb.pendRx = false) ∧
      (e.schedule = .entry :: [] ∧ e.arb.inService = true) := by decide

theorem test_witness_RaisedEventsMerge : (next (.raise 7) fadingV1).schedule = .raise 7 :: [] := by decide

theorem test_witness_DisabledAgentsChangeNothing :
    let wait := { twoPhase State.reset with
      port := { State.reset.port with cmdReady := false, immWait := some ⟨⟨1, 2, 3, 4⟩, false⟩ } }
    ((next .host sendingV18).schedule = .host :: [] ∧ sendingV18.port.cmdReady = false) ∧
      ((next .host State.reset).schedule = .host :: [] ∧ State.reset.hostQueue = []) ∧
      ((next .transfer State.reset).schedule = .transfer :: [] ∧ State.reset.ser.phase ≠ .xfer) ∧
      ((next .settleDone sendingV18).schedule = .settleDone :: [] ∧ sendingV18.ser.phase ≠ .settle) ∧
      ((next .deviceDone (settlingOf sendingV18)).schedule = .deviceDone :: [] ∧
        (settlingOf sendingV18).ser.phase = .settle) ∧
      ((next .applyImmediate wait).schedule = .applyImmediate :: [] ∧
        wait.port.immWait = some ⟨⟨1, 2, 3, 4⟩, false⟩) := by decide

theorem test_witness_SetImmediateAppliesAtOnce : fadingV1.setImmMode = .atomic := by decide

theorem test_witness_SetImmediateFormsAgree :
    let s := twoPhase fadingV1
    s.setImmMode = .twoPhase ∧ s.port.cmdReady = true ∧ s.port.immWait = none ∧ s.arb.inService = false := by decide

theorem test_witness_BeginRampAcceptedInIdle : State.reset.engine.tag = .idle := by decide

theorem test_witness_BeginRampDroppedWhileBusy :
    fadingV1.engine.tag ≠ .idle ∧ holdingV9.engine.tag ≠ .idle := by decide

/-- In `Idle`, in `Fading` with the largest count, in `Holding` with a count of 1. -/
theorem test_witness_OnTickWaits :
    let f := withEngine { fadingV1.engine with cnt := 0xFFFFF }
    let h := withEngine { holdingV9.engine with cnt := 1 }
    State.reset.engine.tag = .idle ∧ (f.engine.tag = .fading ∧ f.engine.cnt ≠ 0) ∧
      (h.engine.tag = .holding ∧ h.engine.cnt ≠ 0) := by decide

theorem test_witness_OnTickEndsHold :
    holdingEnd.engine.tag = .holding ∧ holdingEnd.engine.cnt = 0 := by decide

theorem test_witness_HoldEndsWithoutADutyCall :
    let s := pendingState true false false holdingEnd
    s.schedule = .entry :: [] ∧ s.arb.inService = false ∧ s.arb.pendPwm = true ∧ s.engine.tag = .holding ∧
      s.engine.cnt = 0 := by decide

/-- Each of the three cases of a channel at the ends of its range, and both outcomes of the test for all four. -/
theorem test_witness_OnTickFadeStep :
    let s := withEngine { cur := ⟨255, 0, 1, 7⟩, tgt := ⟨254, 255, 0, 7⟩, tag := .fading, cnt := 0, fade := 1,
                          hold := 0 }
    let u := withEngine { cur := ⟨0, 0, 0, 0⟩, tgt := ⟨0, 0, 0, 0⟩, tag := .fading, cnt := 0, fade := 0, hold := 0 }
    (s.engine.tag = .fading ∧ s.engine.cnt = 0 ∧ (duty s.engine.tgt .ch1).toNat < (duty s.engine.cur .ch1).toNat ∧
        (duty s.engine.cur .ch2).toNat < (duty s.engine.tgt .ch2).toNat ∧
        duty s.engine.cur .ch4 = duty s.engine.tgt .ch4) ∧
      (seen (fun t => decide (t.engine.cur = s.engine.tgt)) (exec .onTick s) = some false) ∧
      (u.engine.tag = .fading ∧ u.engine.cnt = 0) ∧
      (seen (fun t => decide (t.engine.cur = u.engine.tgt)) (exec .onTick u) = some true) := by decide

/-- The counter at 1, at its largest and at 0; the serializer's sums at the end of the device. -/
theorem test_witness_ArithmeticNeverWraps :
    (withEngine { holdingV9.engine with cnt := 1 }).engine.cnt ≠ 0 ∧
      (withEngine { holdingV9.engine with cnt := 0xFFFFF }).engine.cnt ≠ 0 ∧ holdingEnd.engine.cnt = 0 ∧
      (0 : Byte).toNat < (255 : Byte).toNat ∧ sendingV14.ser.a.toNat + sendingV14.ser.n.toNat ≤ 131070 ∧
      sendingV14.ser.p.toNat + sendingV14.ser.n.toNat < 65536 := by decide

/-- What V1 shows after `n` ticks. -/
def rampV1 (n : Nat) : Option (EngineTag × BitVec 20 × Duties) :=
  seen (fun t => (t.engine.tag, t.engine.cnt, t.engine.cur))
    (andThen (exec (.beginRamp 3 1 0 2 2 1) State.reset) (execTicks n))

/-- V1, whose `F = 2`, `P = 2`, `D = 3`, `c = 7`, `e = 17`: each clause where it begins and where it ends. -/
theorem test_witness_RampRunsItsCourse :
    State.reset.engine.tag = .idle ∧
      rampV1 2 = some (.fading, 0, ⟨0, 0, 0, 0⟩) ∧ rampV1 3 = some (.fading, 1, ⟨1, 1, 0, 1⟩) ∧
      rampV1 6 = some (.fading, 0, ⟨2, 1, 0, 2⟩) ∧ rampV1 7 = some (.holding, 9, ⟨3, 1, 0, 2⟩) ∧
      rampV1 16 = some (.holding, 0, ⟨3, 1, 0, 2⟩) ∧ rampV1 17 = some (.idle, 0, ⟨3, 1, 0, 2⟩) := by decide

/-- Out of `Idle` by a `BeginRamp`, out of `Fading` by a `SetImmediate`, by reset and by a tick, out of `Holding` by a
tick, by a `SetImmediate` and by reset. -/
theorem test_witness_TagChangesOnlyByTheTable :
    State.reset.engine.tag = .idle ∧
      seen (fun t => t.engine.tag) (step (issuing 0x020301000200020001 [] State.reset)) = some .fading ∧
      seen (fun t => t.engine.tag) (step (issuing 0x010102030400000000 [] fadingV1)) = some .idle ∧
      seen (fun t => t.engine.tag) (step (next .reset fadingV1)) = some .idle ∧
      seen (fun t => t.engine.tag)
          (step (pendingState true false false
            (withEngine { fadingV1.engine with cur := ⟨2, 1, 0, 2⟩ }))) = some .holding ∧
      seen (fun t => t.engine.tag) (step (pendingState true false false holdingEnd)) = some .idle ∧
      seen (fun t => t.engine.tag) (step (issuing 0x010102030400000000 [] holdingV9)) = some .idle ∧
      seen (fun t => t.engine.tag) (step (next .reset holdingV9)) = some .idle := by decide

/-- The tick source and the arbiter in turn, for ever, from the middle of a fade. -/
theorem test_witness_RampEndsInFairRuns :
    let inputs := alternate (.raise 1) .entry
    let run := follow inputs fadingV1
    IsRun inputs run ∧ TickSourceFair inputs run ∧ ArbiterFair inputs run ∧ Inv (run 0) ∧
      (run 0).engine.tag ≠ .idle := by
  refine ⟨follow_isRun fun n => ?_, fun n _ => ⟨2 * n, by omega, ?_⟩, fun n _ => ⟨2 * n + 1, by omega, ?_⟩,
    ⟨⟨?_, ?_, ?_, ?_, ?_⟩, rfl, rfl, ⟨?_, ?_, ?_⟩, ⟨?_, ?_, ?_⟩, ⟨rfl, ?_, ?_⟩⟩, ?_⟩
  · rw [step_feed]
    unfold alternate
    dsimp only
    split
    · exact ⟨_, rfl⟩
    · exact entryMove_next _
  · rw [alternate_first]; decide
  · rw [alternate_second]; decide
  all_goals decide

theorem test_witness_IdleRegistersUnobservable :
    IdleAlike State.reset (withEngine { State.reset.engine with tgt := ⟨1, 2, 3, 4⟩, fade := 5, hold := 60, cnt := 7 }) :=
  ⟨rfl, rfl, rfl, fun h => absurd rfl h⟩

theorem test_witness_SetImmediateWinsTheRace : fadingV1.setImmMode = .atomic := by decide

theorem test_witness_RampAfterSetImmediateAccepted : holdingV9.setImmMode = .atomic := by decide

theorem test_witness_OutputsFollowDutyCalls :
    seen (fun t => (t.out, t.history.length)) (step (pendingState true false false fadingV1)) =
      some (⟨2, 1, 0, 2⟩, 4) := by decide

theorem test_witness_ProbeAnswersPresence : State.reset.dev.busy = false := by decide

/-- The last address, from a present and from an absent device. -/
theorem test_witness_ReadByteAnswersTheByte :
    (0x7FFF : BitVec 16).toNat < 32768 ∧ State.reset.dev.busy = false ∧ State.reset.dev.present = true ∧
      (unplugged State.reset).dev.busy = false ∧ (unplugged State.reset).dev.present = false := by decide

/-- No byte at the last address a command can name, and the whole device. -/
theorem test_witness_ReadBufferAnswersTheBytes :
    (0 : BitVec 16).toNat = 0 ∧ (0 : BitVec 16).toNat + (0x8000 : BitVec 16).toNat ≤ 32768 ∧
      State.reset.dev.busy = false ∧ State.reset.dev.present = true := by decide

/-- The first address outside, for each of the four commands. -/
theorem test_witness_OutOfRangeRefused :
    32768 ≤ (0x8000 : BitVec 16).toNat ∧ ((2 : BitVec 16).toNat ≠ 0 ∧
      32768 < (0x7FFF : BitVec 16).toNat + (2 : BitVec 16).toNat) ∧
      (fiveBytes ≠ [] ∧ 32768 < (32764 : BitVec 16).toNat + fiveBytes.length) := by decide

theorem test_witness_BusyDeviceFaults :
    (writing State.reset).dev.busy = true ∧ (0x7FFF : BitVec 16).toNat < 32768 ∧ (0 : BitVec 16).toNat = 0 ∧
      (writing sendingV18).dev.busy = true ∧ (writing sendingV18).ser.phase = .xfer ∧
      (writing sendingV18).ser.n ≠ 0 ∧ (writing sendingV18).ser.a.toNat < 32768 ∧
      nextBytes (writing sendingV18).ser ≠ [] ∧
      faulted (exec .probe (writing State.reset)) = some .deviceBusy := by decide

/-- A `WriteBuffer` in its last settle. -/
def lastSettle : State := settlingOf (sending 67 5 0 fiveBytes false)

/-- With the serializer idle, a step of the settle timer or of the sequencer keeps it so. -/
theorem alternate_idle {n : Nat} {s : State} (h : s.ser.phase = .idle) :
    ∃ t, step (feed (alternate .settleDone .transfer n) s) = .next t ∧ t.ser.phase = .idle := by
  rw [step_feed]
  unfold alternate
  dsimp only
  split <;> simp [runMove, settleMove, transferMove, settling, h]

/-- Fed with the settle timer and the sequencer in turn, that command is over after two steps. -/
theorem lastSettle_idle (n : Nat) :
    (follow (alternate .settleDone .transfer) lastSettle (n + 2)).ser.phase = .idle := by
  induction n with
  | zero => rfl
  | succ n ih =>
    obtain ⟨t, h, ht⟩ := alternate_idle (n := n + 2) ih
    rw [follow, h]
    exact ht

/-- The settle timer and the sequencer in turn, for ever, from the last settle of a `WriteBuffer`; no reset. -/
theorem test_witness_WriteCompletesInFairRuns :
    let inputs := alternate .settleDone .transfer
    let run := follow inputs lastSettle
    IsRun inputs run ∧ SettleTimerFair inputs run ∧ SequencerFair inputs run ∧ Inv (run 0) ∧
      (run 0).ser.phase ≠ .idle ∧ ∀ k, (inputs k).move ≠ .reset := by
  refine ⟨follow_isRun fun n => ?_, fun n _ => ⟨2 * n, by omega, ?_⟩, fun n _ => ⟨2 * n + 1, by omega, ?_⟩,
    ⟨⟨?_, ?_, ?_, ?_, ?_⟩, rfl, rfl, ⟨?_, ?_, ?_⟩, ⟨?_, ?_, ?_⟩, ⟨rfl, ?_, ?_⟩⟩, ?_, fun k => ?_⟩
  · match n with
    | 0 => exact ⟨_, rfl⟩
    | 1 => exact ⟨_, rfl⟩
    | n + 2 =>
      obtain ⟨t, h, _⟩ := alternate_idle (n := n + 2) (lastSettle_idle n)
      exact ⟨t, h⟩
  · rw [alternate_first]; decide
  · rw [alternate_second]; decide
  any_goals decide
  unfold alternate
  dsimp only
  split <;> decide

theorem test_witness_WriteByteStartsSequencer : (0x7FFF : BitVec 16).toNat < 32768 := by decide

theorem test_witness_WriteBufferStartsSequencer :
    fiveBytes ≠ [] ∧ (32763 : BitVec 16).toNat + fiveBytes.length ≤ 32768 := by decide

/-- The sequencer of V18 accounts for its request. -/
theorem test_sendingV18_inv : SerializerInv sendingV18.ser :=
  ⟨fun _ => by decide, fun _ => by decide, fun _ h => by cases h⟩

theorem test_witness_TransferSendsOneChunk :
    sendingV18.ser.phase = .xfer ∧ sendingV18.ser.n ≠ 0 ∧ sendingV18.ser.single = false ∧
      SerializerInv sendingV18.ser ∧ sendingV18.dev.mem.wf = true ∧ sendingV18.dev.busy = false ∧
      sendingV18.dev.present = true :=
  ⟨rfl, by decide, rfl, test_sendingV18_inv, rfl, rfl, rfl⟩

theorem test_witness_SettleEndsHold :
    let s := next .settleDone (settlingOf sendingV18)
    s.schedule = .settleDone :: [] ∧ s.ser.phase = .settle := by decide

theorem test_witness_TransferCompletesCommand :
    let s := sending 67 5 0 fiveBytes false
    s.ser.phase = .xfer ∧ s.ser.n = 0 := by decide

theorem test_witness_WriteByteRunsToCompletion :
    (0x7FFF : BitVec 16).toNat < 32768 ∧ (withMemory memoryV15).dev.mem.wf = true ∧
      (withMemory memoryV15).dev.busy = false ∧ (withMemory memoryV15).dev.present = true := by decide

theorem test_witness_WriteBufferRunsToCompletion :
    fiveBytes ≠ [] ∧ (62 : BitVec 16).toNat + fiveBytes.length ≤ 32768 ∧ (withMemory memoryV15).dev.mem.wf = true ∧
      (withMemory memoryV15).dev.busy = false ∧ (withMemory memoryV15).dev.present = true := by decide

/-- V13: no byte, and two neighbouring transactions. -/
theorem test_witness_ClosedFormSplitsByPages :
    closedForm 37 [] = [] ∧ fiveBytes ≠ [] ∧
      (closedForm 62 fiveBytes)[0]? = some (62, [0x11, 0x22]) ∧
      (closedForm 62 fiveBytes)[1]? = some (64, [0x33, 0x44, 0x55]) := by decide

theorem test_witness_WorkedWriteExample :
    (List.replicate 150 (7 : Byte)).length = 150 ∧ State.reset.dev.busy = false := ⟨List.length_replicate, rfl⟩

theorem test_witness_AbsentDeviceWritesOnlyAddressedBytes :
    let s := unplugged sendingV18
    let u := unplugged sendingV14
    (s.ser.phase = .xfer ∧ s.ser.n ≠ 0 ∧ SerializerInv s.ser ∧ s.dev.mem.wf = true ∧ s.dev.busy = false ∧
        s.dev.present = false ∧ s.ser.single = false) ∧
      (u.ser.phase = .xfer ∧ u.ser.n ≠ 0 ∧ SerializerInv u.ser ∧ u.dev.mem.wf = true ∧ u.dev.busy = false ∧
        u.dev.present = false ∧ u.ser.single = true) :=
  ⟨⟨rfl, by decide, test_sendingV18_inv, rfl, rfl, rfl, rfl⟩,
    ⟨rfl, by decide, ⟨fun _ => by decide, fun _ => by decide, fun _ _ => rfl⟩, rfl, rfl, rfl, rfl⟩⟩

theorem test_witness_AbsentDeviceRunsTheWholeList :
    let s := unplugged (withMemory memoryV15)
    fiveBytes ≠ [] ∧ (62 : BitVec 16).toNat + fiveBytes.length ≤ 32768 ∧ s.dev.mem.wf = true ∧ s.dev.busy = false ∧
      s.dev.present = false ∧
      seen (fun t => t.history)
          (andThen (exec (.writeBuffer 62 fiveBytes) s) (runMoves (writeMoves (pagesTouched 62 5)))) =
        some [.response 0 [], .settled, .sendBuffer 64 [0x33, 0x44, 0x55], .settled, .sendBuffer 62 [0x11, 0x22]] :=
  ⟨by decide, by decide, by decide, rfl, rfl, by rfl⟩

/-- V16: five bytes that cross their page. -/
theorem test_witness_DeviceWrapsInsidePage :
    62 < 32768 ∧ fiveBytes ≠ [] ∧ fiveBytes.length ≤ 64 ∧ State.reset.dev.mem.wf = true ∧
      State.reset.dev.busy = false ∧ State.reset.dev.present = true := by decide

/-- The middle of a fade satisfies the invariants. -/
theorem test_fading_inv : Inv (pendingState true false false fadingV1) := by
  refine ⟨⟨?_, ?_, ?_, ?_, ?_⟩, rfl, rfl, ⟨?_, ?_, ?_⟩, ⟨?_, ?_, ?_⟩, ⟨rfl, ?_, ?_⟩⟩ <;> decide

/-- The middle of a settle satisfies the invariants. -/
theorem test_settling_inv : Inv (next .settleDone (settlingOf sendingV18)) := by
  refine ⟨⟨?_, ?_, ?_, ?_, ?_⟩, rfl, rfl, ⟨?_, ?_, ?_⟩, ⟨?_, ?_, ?_⟩, ⟨rfl, ?_, ?_⟩⟩ <;> decide

/-- A transfer about to happen satisfies the invariants. -/
theorem test_sending_inv : Inv (next .transfer sendingV18) := by
  refine ⟨⟨?_, ?_, ?_, ?_, ?_⟩, rfl, rfl, ⟨?_, ?_, ?_⟩, ⟨?_, ?_, ?_⟩, ⟨rfl, ?_, ?_⟩⟩ <;> decide

theorem test_witness_StepKeepsInvariants :
    Inv (pendingState true false false fadingV1) ∧
      seen (fun t => t.engine.cnt) (step (pendingState true false false fadingV1)) = some 1 :=
  ⟨test_fading_inv, by decide⟩

/-- A tick of a fade. -/
theorem test_witness_OutputsEqualCurrentDuties :
    let s := pendingState true false false fadingV1
    s.out = s.engine.cur ∧ seen (fun t => t.out) (step s) = some ⟨2, 1, 0, 2⟩ := by decide

theorem test_witness_ResetWritesRegisters :
    let s := next .reset fadingV1
    s.schedule = .reset :: [] ∧ s.dev.busy = false := by decide

/-- The last page of the device. -/
theorem test_witness_ResetCutsOnlyOnePage :
    let s := next .reset { settlingOf sendingV14 with dev := { State.reset.dev with busy := true, page := 511 } }
    s.schedule = .reset :: [] ∧ s.dev.busy = true ∧ s.dev.mem.wf = true ∧ s.dev.page < 512 := by decide

theorem test_witness_NoTransactionWhileSettling :
    let s := next .settleDone (settlingOf sendingV18)
    Inv s ∧ s.ser.phase = .settle ∧ seen (fun t => t.port.cmdReady) (step s) = some false ∧
      ∀ moves, s.schedule ≠ .reset :: moves :=
  ⟨test_settling_inv, rfl, by decide, fun _ h => by cases h⟩

theorem test_witness_EveryBufferWriteInsideOnePage :
    Inv (next .transfer sendingV18) ∧
      seen (fun t => t.history) (step (next .transfer sendingV18)) = some [.sendBuffer 62 [0x11, 0x22]] :=
  ⟨test_sending_inv, by decide⟩

theorem test_witness_SettleCoversWriteCycle :
    let s := next .settleDone (settlingOf sendingV18)
    Inv s ∧ CycleCovered s ∧ (∀ moves, s.schedule ≠ .reset :: moves) ∧
      seen (fun t => t.dev.busy) (step s) = some false :=
  ⟨test_settling_inv, fun _ => rfl, fun _ h => by (cases h), by decide⟩

theorem test_witness_UnitsAreIndependent :
    isRampOp .onTick = true ∧ isSerializerOp (.readByte 5) = true ∧ isRampMove .entry = true ∧
      isSerializerMove .transfer = true := by decide

theorem test_witness_EnvironmentMovesWriteTheirBit :
    (next (.setPresent false) State.reset).schedule = .setPresent false :: [] ∧
      (next .deviceDone (writing State.reset)).schedule = .deviceDone :: [] ∧
      (next .deviceDone (writing State.reset)).ser.phase ≠ .settle := by decide

/-- The end of V1: `Idle`, at target, nothing pending. -/
theorem test_witness_QuiescentTickIsNoOp :
    let s := withEngine { cur := ⟨3, 1, 0, 2⟩, tgt := ⟨3, 1, 0, 2⟩, tag := .idle, cnt := 0, fade := 2, hold := 10 }
    Inv s ∧ quiescent s = true := by
  refine ⟨⟨⟨?_, ?_, ?_, ?_, ?_⟩, rfl, rfl, ⟨?_, ?_, ?_⟩, ⟨?_, ?_, ?_⟩, ⟨rfl, ?_, ?_⟩⟩, ?_⟩ <;> decide

end Sys2Proof.Tests
end

section
/-! SUPPORT AND PROOFS for the family 10_state.md: the outputs follow the duty calls and stay equal to the current
duties (10 R33, R34), the two units share no resource (10 R46), the device's own moves write one bit (10 R41, R42). -/

namespace Sys2Proof.Machine

/-! ### The outputs and the duty calls -/

/-- Replaying a later piece of history starts where the earlier piece ended; newest first, so the later piece stands
in front. -/
theorem replayDuties_append (later earlier : List Observation) (d : Duties) :
    replayDuties (later ++ earlier) d = replayDuties later (replayDuties earlier d) := by
  induction later with
  | nil => rfl
  | cons o later ih => cases o <;> simp [replayDuties, ih]

/-- What every piece of a step does to the duties: it only adds to the history, the duty calls it adds account for
the outputs, and it keeps `out = cur`. -/
structure DutiesFollow (s t : State) : Prop where
  calls : ∃ new, t.history = new ++ s.history ∧ t.out = replayDuties new s.out
  agree : s.out = s.engine.cur → t.out = t.engine.cur

theorem DutiesFollow.trans {s t u : State} (hst : DutiesFollow s t) (htu : DutiesFollow t u) :
    DutiesFollow s u := by
  obtain ⟨first, hfirst, hout⟩ := hst.calls
  obtain ⟨second, hsecond, hout'⟩ := htu.calls
  refine ⟨⟨second ++ first, ?_, ?_⟩, htu.agree ∘ hst.agree⟩
  · rw [hsecond, hfirst, List.append_assoc]
  · rw [hout', hout, replayDuties_append]

/-- A piece that leaves `out` and `cur` and observes no duty call. -/
theorem DutiesFollow.of_silent {s t : State} (new : List Observation) (hhistory : t.history = new ++ s.history)
    (hsilent : ∀ d, replayDuties new d = d) (hout : t.out = s.out) (hcur : t.engine.cur = s.engine.cur) :
    DutiesFollow s t :=
  ⟨⟨new, hhistory, by rw [hsilent, hout]⟩, fun h => by rw [hout, hcur, h]⟩

/-- A piece that leaves `out`, `cur` and the history. -/
theorem DutiesFollow.of_unchanged {s t : State} (hhistory : t.history = s.history) (hout : t.out = s.out)
    (hcur : t.engine.cur = s.engine.cur) : DutiesFollow s t :=
  .of_silent [] hhistory (fun _ => rfl) hout hcur

theorem DutiesFollow.refl (s : State) : DutiesFollow s s := .of_unchanged rfl rfl rfl

/-- A piece that drives all four channels to `d` and makes `d` the current duties. -/
theorem DutiesFollow.of_emitAll {s t : State} (d : Duties) (hhistory : t.history = (emitAll d s).history)
    (hout : t.out = d) (hcur : t.engine.cur = d) : DutiesFollow s t :=
  ⟨⟨[.duty .ch4 d.ch4, .duty .ch3 d.ch3, .duty .ch2 d.ch2, .duty .ch1 d.ch1], hhistory, hout⟩,
    fun _ => hout.trans hcur.symm⟩

theorem dutiesFollow_applyDuties (d : Duties) (s : State) : DutiesFollow s (applyDuties d s) :=
  .of_emitAll d rfl rfl rfl

theorem dutiesFollow_respond (r : BitVec 16) (b : List Byte) (s : State) : DutiesFollow s (respond r b s) :=
  .of_silent [.response r b] rfl (fun _ => rfl) rfl rfl

theorem dutiesFollow_resetStep (s : State) : DutiesFollow s (resetStep s) :=
  .of_emitAll s.resetDuty (resetStep_history s) (resetStep_out s) (by rw [resetStep_engine])

/-! The ramp engine. -/

theorem dutiesFollow_fadeStep (s : State) : DutiesFollow s (fadeStep s) := by
  simp only [fadeStep]
  split
  · exact .of_emitAll (moveAll s.engine.cur s.engine.tgt) rfl rfl rfl
  · exact .of_emitAll (moveAll s.engine.cur s.engine.tgt) rfl rfl rfl

theorem dutiesFollow_tickBranch (s : State) : DutiesFollow s (tickBranch s) := by
  unfold tickBranch
  split
  · exact dutiesFollow_fadeStep s
  · split <;> exact .of_unchanged rfl rfl rfl

theorem dutiesFollow_decrementCount (s : State) : DutiesFollow s (decrementCount s) := by
  unfold decrementCount
  split <;> exact .of_unchanged rfl rfl rfl

theorem dutiesFollow_tickBody (s : State) : DutiesFollow s (tickBody s) :=
  (dutiesFollow_tickBranch s).trans (dutiesFollow_decrementCount _)

theorem dutiesFollow_applyImmediateStep (s : State) : DutiesFollow s (applyImmediateStep s) := by
  unfold applyImmediateStep
  split
  · rename_i w _
    split
    · exact (dutiesFollow_applyDuties w.duties s).trans (.of_silent [.response 0 []] rfl (fun _ => rfl) rfl rfl)
    · exact .refl s
  · exact .refl s

theorem dutiesFollow_execSetImmediate {d1 d2 d3 d4 : Byte} {s t : State}
    (h : execSetImmediate d1 d2 d3 d4 s = .next t) : DutiesFollow s t := by
  have hcancel : DutiesFollow s (cancelRamp s) := .of_unchanged rfl rfl rfl
  unfold execSetImmediate at h
  split at h <;> cases h
  · exact hcancel.trans ((dutiesFollow_applyDuties _ _).trans (dutiesFollow_respond _ _ _))
  · exact hcancel.trans (.of_unchanged rfl rfl rfl)

theorem dutiesFollow_execBeginRamp {t1 t2 t3 t4 : Byte} {f h : BitVec 16} {s t : State}
    (heq : execBeginRamp t1 t2 t3 t4 f h s = .next t) : DutiesFollow s t := by
  unfold execBeginRamp at heq
  split at heq <;> cases heq
  · exact dutiesFollow_respond _ _ s
  · exact .of_silent [.response 0 []] rfl (fun _ => rfl) rfl rfl

/-! The serializer and the transport: transactions and responses, no duty call. -/

theorem dutiesFollow_execProbe {s t : State} (h : execProbe s = .next t) : DutiesFollow s t := by
  obtain ⟨⟨b, u⟩, hcall, hresp⟩ := andThen_eq_next h
  obtain ⟨-, -, rfl⟩ := transportPresent_next hcall
  cases hresp
  exact .of_silent [.response _ _, .devicePresent _] rfl (fun _ => rfl) rfl rfl

theorem dutiesFollow_execReadByte {a : BitVec 16} {s t : State} (h : execReadByte a s = .next t) :
    DutiesFollow s t := by
  obtain ⟨⟨v, u⟩, hcall, hresp⟩ := andThen_eq_next h
  obtain ⟨-, -, -, rfl⟩ := transportGet_next hcall
  cases hresp
  exact .of_silent [.response _ _, .get _ _] rfl (fun _ => rfl) rfl rfl

theorem dutiesFollow_execReadBuffer {a n : BitVec 16} {s t : State} (h : execReadBuffer a n s = .next t) :
    DutiesFollow s t := by
  obtain ⟨⟨v, u⟩, hcall, hresp⟩ := andThen_eq_next h
  obtain ⟨-, -, -, rfl⟩ := transportGetBuffer_next hcall
  cases hresp
  exact .of_silent [.response _ _, .getBuffer _ _ _] rfl (fun _ => rfl) rfl rfl

theorem dutiesFollow_execWriteByte {a : BitVec 16} {v : Byte} {s t : State}
    (h : execWriteByte a v s = .next t) : DutiesFollow s t := by
  unfold execWriteByte at h
  split at h <;> cases h
  exact .of_unchanged rfl rfl rfl

theorem dutiesFollow_execWriteBuffer {a : BitVec 16} {bytes : List Byte} {s t : State}
    (h : execWriteBuffer a bytes s = .next t) : DutiesFollow s t := by
  unfold execWriteBuffer at h
  split at h
  · cases h
    exact dutiesFollow_respond _ _ s
  · split at h <;> cases h
    exact .of_unchanged rfl rfl rfl

theorem dutiesFollow_nextTransaction {s t : State} (h : nextTransaction s = .next t) : DutiesFollow s t := by
  unfold nextTransaction at h
  split at h
  · split at h
    · cases h
    · obtain ⟨-, -, rfl⟩ := transportSend_next h
      exact .of_silent [.send _ _] rfl (fun _ => rfl) rfl rfl
  · obtain ⟨-, -, -, rfl⟩ := transportSendBuffer_next h
    exact .of_silent [.sendBuffer _ _] rfl (fun _ => rfl) rfl rfl

theorem dutiesFollow_transferStep {s t : State} (h : transferStep s = .next t) : DutiesFollow s t := by
  unfold transferStep at h
  split at h
  · cases h
    exact .of_silent [.response 0 []] rfl (fun _ => rfl) rfl rfl
  · obtain ⟨u, hsend, hadvance⟩ := andThen_eq_next h
    cases hadvance
    exact (dutiesFollow_nextTransaction hsend).trans (.of_unchanged rfl rfl rfl)

/-! Instructions, moves, steps. -/

theorem dutiesFollow_exec {i : Instr} {s t : State} (h : exec i s = .next t) : DutiesFollow s t := by
  cases i with
  | setImmediate d1 d2 d3 d4 => exact dutiesFollow_execSetImmediate h
  | beginRamp t1 t2 t3 t4 f hold => exact dutiesFollow_execBeginRamp h
  | isBusy => cases h; exact dutiesFollow_respond _ _ s
  | probe => exact dutiesFollow_execProbe h
  | capacity => cases h; exact dutiesFollow_respond _ _ s
  | readByte a => exact dutiesFollow_execReadByte h
  | readBuffer a n => exact dutiesFollow_execReadBuffer h
  | writeByte a v => exact dutiesFollow_execWriteByte h
  | writeBuffer a bytes => exact dutiesFollow_execWriteBuffer h
  | onTick => cases h; exact (dutiesFollow_tickBody s).trans (.of_unchanged rfl rfl rfl)
  | sensorHandler => cases h; exact .of_unchanged rfl rfl rfl
  | rxHandler => cases h; exact .of_unchanged rfl rfl rfl

theorem dutiesFollow_hostMove {s t : State} (h : hostMove s = .next t) : DutiesFollow s t := by
  unfold hostMove at h
  split at h
  · cases h; exact .refl s
  · split at h
    · split at h
      · have htake : ∀ rest left, DutiesFollow s (takeCommand rest left s) :=
          fun _ _ => .of_unchanged rfl rfl rfl
        exact (htake _ _).trans (dutiesFollow_exec h)
      · cases h
    · cases h; exact .refl s

theorem dutiesFollow_entryMove {s t : State} (h : entryMove s = .next t) : DutiesFollow s t := by
  have henter : DutiesFollow s (enterHandler s) :=
    .of_unchanged (enterHandler_history s) (enterHandler_out s) (by rw [enterHandler_engine])
  unfold entryMove at h
  split at h
  · cases h; exact .refl s
  · split at h
    · exact henter.trans (dutiesFollow_exec h)
    · cases h; exact .refl s

theorem dutiesFollow_transferMove {s t : State} (h : transferMove s = .next t) : DutiesFollow s t := by
  unfold transferMove at h
  split at h
  · exact dutiesFollow_transferStep h
  · cases h; exact .refl s

theorem dutiesFollow_settleMove {s t : State} (h : settleMove s = .next t) : DutiesFollow s t := by
  unfold settleMove at h
  split at h <;> cases h
  · exact .of_silent [.settled] rfl (fun _ => rfl) rfl rfl
  · exact .refl s

theorem dutiesFollow_deviceMove {s t : State} (h : deviceMove s = .next t) : DutiesFollow s t := by
  unfold deviceMove at h
  split at h <;> cases h <;> exact .of_unchanged rfl rfl rfl

theorem dutiesFollow_runMove {m : Move} {s t : State} (h : runMove m s = .next t) : DutiesFollow s t := by
  cases m with
  | host => exact dutiesFollow_hostMove h
  | raise ev => cases h; exact .of_unchanged rfl rfl rfl
  | entry => exact dutiesFollow_entryMove h
  | transfer => exact dutiesFollow_transferMove h
  | settleDone => exact dutiesFollow_settleMove h
  | deviceDone => exact dutiesFollow_deviceMove h
  | applyImmediate => cases h; exact dutiesFollow_applyImmediateStep s
  | setPresent b => cases h; exact .of_unchanged rfl rfl rfl
  | reset => cases h; exact dutiesFollow_resetStep s

theorem dutiesFollow_step {s t : State} (h : step s = .next t) : DutiesFollow s t := by
  rcases step_cases h with ⟨-, rfl⟩ | ⟨m, rest, -, hmove⟩
  · exact .refl t
  · have hpop : DutiesFollow s { s with schedule := rest } := .of_unchanged rfl rfl rfl
    exact hpop.trans (dutiesFollow_runMove hmove)

/-- Settles O28: every piece of a step accounts for the outputs by its duty calls, and such pieces compose. -/
theorem outputsFollowDutyCalls : Obligations.OutputsFollowDutyCalls := fun _ _ h =>
  (dutiesFollow_step h).calls

/-- Settles O51: `out` and `cur` are only ever written together, to the same bank. -/
theorem outputsEqualCurrentDuties : Obligations.OutputsEqualCurrentDuties :=
  ⟨rfl, fun _ _ hout h => (dutiesFollow_step h).agree hout⟩

/-! ### The device's own moves -/

theorem settling_iff (s : State) : settling s = true ↔ s.ser.phase = .settle := by
  simp [settling]

/-- Settles O55: the environment's move and, outside a settle, the device's own. -/
theorem environmentMovesWriteTheirBit : Obligations.EnvironmentMovesWriteTheirBit := by
  intro s b moves
  constructor
  · intro hnext
    rw [step_cons hnext]
    rfl
  · intro hnext hphase
    have hidle : ¬ settling { s with schedule := moves } = true := mt (settling_iff _).mp hphase
    rw [step_cons hnext]
    exact if_neg hidle

/-! ### The two units share no resource

A piece of the machine that neither reads nor writes a group of fields commutes with replacing that group: it does not
read it, since the replaced state has the same outcome elsewhere, and it does not write it, since replacing a group by
its own values is the identity. -/

/-- The state with another serializer and another device. -/
def replaceEeprom (q : Serializer) (d : Device) (s : State) : State := { s with ser := q, dev := d }

/-- The state with another engine, other outputs and another arbiter. -/
def replaceRamp (e : Engine) (o : Duties) (b : Arbiter) (s : State) : State :=
  { s with engine := e, out := o, arb := b }

/-- An outcome with `g` applied to what it answers; a stop stays the same stop. -/
def mapNext {α β : Type} (g : α → β) (o : Host.Outcome α Fault Refusal) : Host.Outcome β Fault Refusal :=
  andThen o fun x => .next (g x)

@[simp] theorem mapNext_next {α β : Type} (g : α → β) (x : α) : mapNext g (.next x) = .next (g x) := rfl

/-- A test that both states answer alike keeps two pieces independent of a replacement. -/
theorem semiconj_ite {α β : Type} {f₁ f₂ : α → β} {g : α → α} {g' : β → β} {p : α → Prop} [DecidablePred p]
    (hp : ∀ x, p (g x) ↔ p x) (h₁ : Function.Semiconj f₁ g g') (h₂ : Function.Semiconj f₂ g g') :
    Function.Semiconj (fun x => if p x then f₁ x else f₂ x) g g' := by
  intro x
  by_cases h : p x
  · simp only [if_pos h, if_pos ((hp x).mpr h), h₁ x]
  · simp only [if_neg h, if_neg (mt (hp x).mp h), h₂ x]

/-- So does the sequencing of stops. -/
theorem semiconj_andThen {α β : Type} {g : State → State} {g₁ : α → α} {g₂ : β → β}
    {f : State → Host.Outcome α Fault Refusal} {k : α → Host.Outcome β Fault Refusal}
    (hf : Function.Semiconj f g (mapNext g₁)) (hk : Function.Semiconj k g₁ (mapNext g₂)) :
    Function.Semiconj (fun s => andThen (f s) k) g (mapNext g₂) := by
  intro s
  simp only [hf s]
  cases f s with
  | next x => exact hk x
  | fault r => rfl
  | refused r => rfl

/-! The ramp engine's side, whatever the serializer and the device hold. -/

section Ramp

variable (q : Serializer) (d : Device)

theorem fadeStep_replaceEeprom : Function.Commute fadeStep (replaceEeprom q d) :=
  semiconj_ite (fun _ => Iff.rfl) (fun _ => rfl) (fun _ => rfl)

theorem tickBranch_replaceEeprom : Function.Commute tickBranch (replaceEeprom q d) :=
  semiconj_ite (fun _ => Iff.rfl) (fadeStep_replaceEeprom q d)
    (semiconj_ite (fun _ => Iff.rfl) (fun _ => rfl) (fun _ => rfl))

theorem decrementCount_replaceEeprom : Function.Commute decrementCount (replaceEeprom q d) :=
  semiconj_ite (fun _ => Iff.rfl) (fun _ => rfl) (fun _ => rfl)

theorem tickBody_replaceEeprom : Function.Commute tickBody (replaceEeprom q d) :=
  (decrementCount_replaceEeprom q d).comp_left (tickBranch_replaceEeprom q d)

theorem enterHandler_replaceEeprom : Function.Commute enterHandler (replaceEeprom q d) :=
  semiconj_ite (fun _ => Iff.rfl) (fun _ => rfl)
    (semiconj_ite (fun _ => Iff.rfl) (fun _ => rfl)
      (semiconj_ite (fun _ => Iff.rfl) (fun _ => rfl) (fun _ => rfl)))

theorem applyImmediateStep_replaceEeprom : Function.Commute applyImmediateStep (replaceEeprom q d) := by
  intro s
  have hport : (replaceEeprom q d s).port = s.port := rfl
  simp only [applyImmediateStep, hport]
  cases s.port.immWait with
  | none => rfl
  | some w =>
    obtain ⟨duties, ticked⟩ := w
    cases ticked with
    | false => rfl
    | true => rfl

theorem execSetImmediate_replaceEeprom (d1 d2 d3 d4 : Byte) :
    Function.Semiconj (execSetImmediate d1 d2 d3 d4) (replaceEeprom q d) (mapNext (replaceEeprom q d)) := by
  intro s
  have hmode : (replaceEeprom q d s).setImmMode = s.setImmMode := rfl
  simp only [execSetImmediate, hmode]
  cases s.setImmMode with
  | atomic => rfl
  | twoPhase => rfl

theorem execBeginRamp_replaceEeprom (t1 t2 t3 t4 : Byte) (f h : BitVec 16) :
    Function.Semiconj (execBeginRamp t1 t2 t3 t4 f h) (replaceEeprom q d) (mapNext (replaceEeprom q d)) :=
  semiconj_ite (fun _ => Iff.rfl) (fun _ => rfl) (fun _ => rfl)

theorem execOnTick_replaceEeprom :
    Function.Semiconj execOnTick (replaceEeprom q d) (mapNext (replaceEeprom q d)) := fun s =>
  congrArg (fun t => Host.Outcome.next (leaveHandler (noteTick t))) (tickBody_replaceEeprom q d s)

theorem exec_handler_replaceEeprom {i : Instr} (hi : i = .onTick ∨ i = .sensorHandler ∨ i = .rxHandler) :
    Function.Semiconj (exec i) (replaceEeprom q d) (mapNext (replaceEeprom q d)) := by
  rcases hi with rfl | rfl | rfl
  · exact execOnTick_replaceEeprom q d
  · exact fun _ => rfl
  · exact fun _ => rfl

theorem entryMove_replaceEeprom :
    Function.Semiconj entryMove (replaceEeprom q d) (mapNext (replaceEeprom q d)) := by
  refine semiconj_ite (fun _ => Iff.rfl) (fun _ => rfl) fun s => ?_
  have hpending : pending (replaceEeprom q d s) = pending s := rfl
  simp only [hpending]
  cases hdecode : decodeEvents (pending s) with
  | none => rfl
  | some i =>
    simp only [enterHandler_replaceEeprom q d s]
    exact exec_handler_replaceEeprom q d (decodeEvents_handler hdecode) _

theorem exec_rampOp_replaceEeprom {i : Instr} (hi : isRampOp i = true) :
    Function.Semiconj (exec i) (replaceEeprom q d) (mapNext (replaceEeprom q d)) := by
  cases i with
  | setImmediate d1 d2 d3 d4 => exact execSetImmediate_replaceEeprom q d d1 d2 d3 d4
  | beginRamp t1 t2 t3 t4 f h => exact execBeginRamp_replaceEeprom q d t1 t2 t3 t4 f h
  | isBusy => exact fun _ => rfl
  | onTick => exact execOnTick_replaceEeprom q d
  | _ => cases hi

theorem runMove_rampMove_replaceEeprom {m : Move} (hm : isRampMove m = true) :
    Function.Semiconj (runMove m) (replaceEeprom q d) (mapNext (replaceEeprom q d)) := by
  cases m with
  | raise ev => exact fun _ => rfl
  | entry => exact entryMove_replaceEeprom q d
  | applyImmediate => exact fun s => congrArg Host.Outcome.next (applyImmediateStep_replaceEeprom q d s)
  | _ => cases hm

end Ramp

/-- An operation of the ramp engine stops in no state. -/
theorem exec_rampOp_next {i : Instr} (hi : isRampOp i = true) (s : State) : ∃ t, exec i s = .next t := by
  cases i with
  | setImmediate d1 d2 d3 d4 =>
    simp only [exec, execSetImmediate]
    split <;> exact ⟨_, rfl⟩
  | beginRamp t1 t2 t3 t4 f h =>
    simp only [exec, execBeginRamp]
    split <;> exact ⟨_, rfl⟩
  | isBusy => exact ⟨_, rfl⟩
  | onTick => exact ⟨_, rfl⟩
  | _ => cases hi

/-- Nor does a move of its side. -/
theorem runMove_rampMove_next {m : Move} (hm : isRampMove m = true) (s : State) :
    ∃ t, runMove m s = .next t := by
  cases m with
  | raise ev => exact ⟨_, rfl⟩
  | entry => exact entryMove_next s
  | applyImmediate => exact ⟨_, rfl⟩
  | _ => cases hm

/-- What completes and commutes with every replacement of the serializer and the device leaves both alone: replace
them by themselves. -/
theorem ramp_independent {f : State → Host.Outcome State Fault Refusal} {s : State} (hnext : ∃ t, f s = .next t)
    (hf : ∀ q d, Function.Semiconj f (replaceEeprom q d) (mapNext (replaceEeprom q d)))
    (q : Serializer) (d : Device) :
    ∃ t, f s = .next t ∧ t.ser = s.ser ∧ t.dev = s.dev ∧
      f (replaceEeprom q d s) = .next (replaceEeprom q d t) := by
  obtain ⟨t, ht⟩ := hnext
  have hself : f s = mapNext (replaceEeprom s.ser s.dev) (f s) := hf s.ser s.dev s
  rw [ht, mapNext_next] at hself
  have hkeep : t = replaceEeprom s.ser s.dev t := Host.Outcome.next.inj hself
  refine ⟨t, ht, by rw [hkeep]; rfl, by rw [hkeep]; rfl, ?_⟩
  rw [hf q d s, ht, mapNext_next]

/-! The serializer's side, whatever the engine, the outputs and the arbiter hold. -/

section Serializer

variable (e : Engine) (o : Duties) (b : Arbiter)

theorem transportPresent_replaceRamp :
    Function.Semiconj transportPresent (replaceRamp e o b) (mapNext (Prod.map id (replaceRamp e o b))) :=
  semiconj_ite (fun _ => Iff.rfl) (fun _ => rfl) (fun _ => rfl)

theorem transportGet_replaceRamp (a : Nat) :
    Function.Semiconj (transportGet a) (replaceRamp e o b) (mapNext (Prod.map id (replaceRamp e o b))) :=
  semiconj_ite (fun _ => Iff.rfl) (semiconj_ite (fun _ => Iff.rfl) (fun _ => rfl) (fun _ => rfl)) (fun _ => rfl)

theorem transportGetBuffer_replaceRamp (a n : Nat) :
    Function.Semiconj (transportGetBuffer a n) (replaceRamp e o b)
      (mapNext (Prod.map id (replaceRamp e o b))) :=
  semiconj_ite (fun _ => Iff.rfl) (semiconj_ite (fun _ => Iff.rfl) (fun _ => rfl) (fun _ => rfl)) (fun _ => rfl)

theorem transportSend_replaceRamp (a : Nat) (v : Byte) :
    Function.Semiconj (transportSend a v) (replaceRamp e o b) (mapNext (replaceRamp e o b)) :=
  semiconj_ite (fun _ => Iff.rfl) (semiconj_ite (fun _ => Iff.rfl) (fun _ => rfl) (fun _ => rfl)) (fun _ => rfl)

theorem transportSendBuffer_replaceRamp (a : Nat) (bytes : List Byte) :
    Function.Semiconj (transportSendBuffer a bytes) (replaceRamp e o b) (mapNext (replaceRamp e o b)) :=
  semiconj_ite (fun _ => Iff.rfl) (fun _ => rfl)
    (semiconj_ite (fun _ => Iff.rfl) (semiconj_ite (fun _ => Iff.rfl) (fun _ => rfl) (fun _ => rfl))
      (fun _ => rfl))

theorem nextTransaction_replaceRamp :
    Function.Semiconj nextTransaction (replaceRamp e o b) (mapNext (replaceRamp e o b)) := by
  refine semiconj_ite (fun _ => Iff.rfl) (fun s => ?_) fun s => transportSendBuffer_replaceRamp e o b _ _ s
  have hser : (replaceRamp e o b s).ser = s.ser := rfl
  simp only [hser]
  cases nextBytes s.ser with
  | nil => rfl
  | cons v vs => exact transportSend_replaceRamp e o b _ v s

theorem transferStep_replaceRamp :
    Function.Semiconj transferStep (replaceRamp e o b) (mapNext (replaceRamp e o b)) :=
  semiconj_ite (fun _ => Iff.rfl) (fun _ => rfl)
    (semiconj_andThen (nextTransaction_replaceRamp e o b) fun _ => rfl)

theorem exec_serializerOp_replaceRamp {i : Instr} (hi : isSerializerOp i = true) :
    Function.Semiconj (exec i) (replaceRamp e o b) (mapNext (replaceRamp e o b)) := by
  cases i with
  | probe => exact semiconj_andThen (transportPresent_replaceRamp e o b) fun _ => rfl
  | capacity => exact fun _ => rfl
  | readByte a => exact semiconj_andThen (transportGet_replaceRamp e o b a.toNat) fun _ => rfl
  | readBuffer a n =>
    exact semiconj_andThen (transportGetBuffer_replaceRamp e o b a.toNat n.toNat) fun _ => rfl
  | writeByte a v => exact semiconj_ite (fun _ => Iff.rfl) (fun _ => rfl) (fun _ => rfl)
  | writeBuffer a bytes =>
    exact semiconj_ite (fun _ => Iff.rfl) (fun _ => rfl)
      (semiconj_ite (fun _ => Iff.rfl) (fun _ => rfl) (fun _ => rfl))
  | _ => cases hi

theorem runMove_serializerMove_replaceRamp {m : Move} (hm : isSerializerMove m = true) :
    Function.Semiconj (runMove m) (replaceRamp e o b) (mapNext (replaceRamp e o b)) := by
  cases m with
  | transfer => exact semiconj_ite (fun _ => Iff.rfl) (transferStep_replaceRamp e o b) (fun _ => rfl)
  | settleDone => exact semiconj_ite (fun _ => Iff.rfl) (fun _ => rfl) (fun _ => rfl)
  | deviceDone => exact semiconj_ite (fun _ => Iff.rfl) (fun _ => rfl) (fun _ => rfl)
  | setPresent v => exact fun _ => rfl
  | _ => cases hm

end Serializer

/-- What commutes with every replacement of the engine, the outputs and the arbiter leaves them alone: replace them by
themselves. -/
theorem serializer_independent {f : State → Host.Outcome State Fault Refusal}
    (hf : ∀ e o b, Function.Semiconj f (replaceRamp e o b) (mapNext (replaceRamp e o b)))
    (s : State) (e : Engine) (o : Duties) (b : Arbiter) :
    OutcomesAlike
      (fun t t' => t.engine = s.engine ∧ t.out = s.out ∧ t.arb = s.arb ∧ t' = replaceRamp e o b t)
      (f s) (f (replaceRamp e o b s)) := by
  have hself : f s = mapNext (replaceRamp s.engine s.out s.arb) (f s) := hf s.engine s.out s.arb s
  rw [hf e o b s]
  cases hfs : f s with
  | next t =>
    rw [hfs, mapNext_next] at hself
    have hkeep : t = replaceRamp s.engine s.out s.arb t := Host.Outcome.next.inj hself
    exact ⟨by rw [hkeep]; rfl, by rw [hkeep]; rfl, by rw [hkeep]; rfl, rfl⟩
  | fault r => rfl
  | refused r => rfl

/-- Settles O59: each side commutes with every replacement of the other side's fields. -/
theorem unitsAreIndependent : Obligations.UnitsAreIndependent := fun _ _ s q d e o b =>
  ⟨fun hi => ramp_independent (exec_rampOp_next hi s) (fun q d => exec_rampOp_replaceEeprom q d hi) q d,
    fun hm => ramp_independent (runMove_rampMove_next hm s) (fun q d => runMove_rampMove_replaceEeprom q d hm) q d,
    fun hi => serializer_independent (fun e o b => exec_serializerOp_replaceRamp e o b hi) s e o b,
    fun hm => serializer_independent (fun e o b => runMove_serializerMove_replaceRamp e o b hm) s e o b⟩

end Sys2Proof.Machine
end

section
/-! SUPPORT AND PROOFS for the family 20_memory.md: what is out of range is refused (20 R66), a write transaction wraps
inside its page (20 R68), the settle covers the device's write cycle (20 R71). -/

namespace Sys2Proof.Machine

/-! ### Out of range -/

theorem inRange_eq_false {a n : Nat} (hn : n ≠ 0) (hreach : 32768 < a + n) : inRange a n = false := by
  rw [← Bool.not_eq_true, inRange_iff, Config.cap]
  omega

theorem transportGet_outOfRange {a : Nat} (h : inRange a 1 = false) (s : State) :
    transportGet a s = .refused .outOfRange := by
  simp [transportGet, h]

theorem transportGetBuffer_outOfRange {a n : Nat} (h : inRange a n = false) (s : State) :
    transportGetBuffer a n s = .refused .outOfRange := by
  simp [transportGetBuffer, h]

theorem exec_readByte_outOfRange {a : BitVec 16} (h : inRange a.toNat 1 = false) (s : State) :
    exec (.readByte a) s = .refused .outOfRange := by
  simp only [exec, execReadByte, transportGet_outOfRange h, andThen_refused]

theorem exec_readBuffer_outOfRange {a n : BitVec 16} (h : inRange a.toNat n.toNat = false) (s : State) :
    exec (.readBuffer a n) s = .refused .outOfRange := by
  simp only [exec, execReadBuffer, transportGetBuffer_outOfRange h, andThen_refused]

theorem exec_writeByte_outOfRange {a : BitVec 16} (h : inRange a.toNat 1 = false) (v : Byte) (s : State) :
    exec (.writeByte a v) s = .refused .outOfRange := by
  simp [exec, execWriteByte, h]

theorem exec_writeBuffer_outOfRange {a : BitVec 16} {bytes : List Byte} (hne : bytes ≠ [])
    (h : inRange a.toNat bytes.length = false) (s : State) :
    exec (.writeBuffer a bytes) s = .refused .outOfRange := by
  simp [exec, execWriteBuffer, hne, h]

/-- Settles O34: the reads are refused by the transport's range check, the writes by the serializer's own, when the
command is issued. -/
theorem outOfRangeRefused : Obligations.OutOfRangeRefused := by
  intro a n v bytes s
  refine ⟨fun ha => ?_, fun hn hreach => ?_, fun hne hreach => ?_⟩
  · have hout : inRange a.toNat 1 = false := inRange_eq_false one_ne_zero (by omega)
    exact ⟨exec_readByte_outOfRange hout s, exec_writeByte_outOfRange hout v s⟩
  · exact exec_readBuffer_outOfRange (inRange_eq_false hn hreach) s
  · exact exec_writeBuffer_outOfRange hne (inRange_eq_false (by simpa using hne) hreach) s

/-! ### The device's wrap -/

/-- `sendBuffer` to a present device that is not busy: the bytes themselves are stored and no free value is drawn. -/
theorem transportSendBuffer_present {a : Nat} {v : List Byte} {s : State} (hv : v ≠ []) (ha : a < Config.cap)
    (hfree : s.dev.busy = false) (hpresent : s.dev.present = true) :
    transportSendBuffer a v s = .next
      { s with
        dev :=
          { mem := Memory.storeFrom s.dev.mem a 0 v, present := true, busy := true, page := a / Config.page }
        history := .sendBuffer a v :: s.history } := by
  have hstored : storedBytes v s = v := by simp [storedBytes, hpresent]
  have hdraws : drawsOf v.length s = 0 := by simp [drawsOf, hpresent]
  rw [transportSendBuffer_of hv ha hfree, hstored, hdraws]
  simp only [startCycle, hpresent]
  rfl

/-- Settles O49: `wrapAddress` is R184's formula, it stays in the page of `a`, and it sends the at most 64 bytes of the
transaction to different addresses, so none of them overwrites another. -/
theorem deviceWrapsInsidePage : Obligations.DeviceWrapsInsidePage := by
  intro a bytes s ha hne hlen hwf hfree hpresent
  refine ⟨_, transportSendBuffer_present hne ha hfree hpresent, fun k hk => ?_, fun b hb => ?_, fun b hb => ?_, rfl⟩
  · have hbyte : bytes[k]? = some bytes[k] := List.getElem?_eq_getElem hk
    have hread : Memory.read (Memory.storeFrom s.dev.mem a 0 bytes) (wrapAddress a (0 + k)) = bytes[k] :=
      storeFrom_stored hwf ha (by simpa [Config.page] using hlen) hbyte
    rw [Nat.zero_add] at hread
    exact hbyte.trans (congrArg some hread.symm)
  · exact storeFrom_other hwf ha fun j hj => by simpa [wrapAddress, Config.page] using hb j hj
  · exact storeFrom_outside_page hwf ha hb

/-! ### The settle covers the write cycle -/

/-- The outcome is no fault, and what it answers, if it answers, satisfies `P`. -/
def FaultFree {α : Type} (P : α → Prop) : Host.Outcome α Fault Refusal → Prop
  | .next x => P x
  | .fault _ => False
  | .refused _ => True

theorem faultFree_iff {α : Type} {P : α → Prop} {o : Host.Outcome α Fault Refusal} :
    FaultFree P o ↔ (∀ f, o ≠ .fault f) ∧ ∀ x, o = .next x → P x := by
  cases o with
  | next x => simp [FaultFree]
  | fault f => exact iff_of_false id fun h => h.1 f rfl
  | refused r => simp [FaultFree]

theorem FaultFree.mono {α : Type} {P Q : α → Prop} {o : Host.Outcome α Fault Refusal} (h : FaultFree P o)
    (hPQ : ∀ x, P x → Q x) : FaultFree Q o := by
  cases o with
  | next x => exact hPQ x h
  | fault f => exact h
  | refused r => exact h

theorem FaultFree.andThen {α β : Type} {P : α → Prop} {Q : β → Prop} {o : Host.Outcome α Fault Refusal}
    {k : α → Host.Outcome β Fault Refusal} (h : FaultFree P o) (hk : ∀ x, P x → FaultFree Q (k x)) :
    FaultFree Q (andThen o k) := by
  cases o with
  | next x => exact hk x h
  | fault f => exact h
  | refused r => exact h

/-! A device that is not busy stops no transport call (42 R186), and only write transactions write it. -/

section FreeDevice

variable {s : State} (hfree : s.dev.busy = false)
include hfree

theorem transportPresent_faultFree : FaultFree (fun r => r.2.dev = s.dev) (transportPresent s) := by
  simp [transportPresent, hfree, FaultFree, observe]

theorem transportGet_faultFree (a : Nat) : FaultFree (fun r => r.2.dev = s.dev) (transportGet a s) := by
  unfold transportGet
  split
  · rw [hfree]
    rfl
  · trivial

theorem transportGetBuffer_faultFree (a n : Nat) :
    FaultFree (fun r => r.2.dev = s.dev) (transportGetBuffer a n s) := by
  unfold transportGetBuffer
  split
  · rw [hfree]
    rfl
  · trivial

theorem transportSend_faultFree (a : Nat) (v : Byte) : FaultFree (fun _ => True) (transportSend a v s) := by
  unfold transportSend
  split
  · rw [hfree]
    trivial
  · trivial

theorem transportSendBuffer_faultFree (a : Nat) (bytes : List Byte) :
    FaultFree (fun _ => True) (transportSendBuffer a bytes s) := by
  unfold transportSendBuffer
  split
  · trivial
  · split
    · rw [hfree]
      trivial
    · trivial

theorem nextTransaction_faultFree : FaultFree (fun _ => True) (nextTransaction s) := by
  unfold nextTransaction
  split
  · split
    · trivial
    · exact transportSend_faultFree hfree _ _
  · exact transportSendBuffer_faultFree hfree _ _

end FreeDevice

/-- What completes and commutes with every replacement of the serializer and the device neither faults nor writes
either. -/
theorem ramp_faultFree {f : State → Host.Outcome State Fault Refusal} {s : State} (hnext : ∃ t, f s = .next t)
    (hf : ∀ q d, Function.Semiconj f (replaceEeprom q d) (mapNext (replaceEeprom q d))) :
    FaultFree (fun t => t.ser = s.ser ∧ t.dev = s.dev) (f s) := by
  obtain ⟨t, ht, hser, hdev, -⟩ := ramp_independent hnext hf s.ser s.dev
  rw [ht]
  exact ⟨hser, hdev⟩

/-- With the device not busy no instruction faults, and none writes the device: the write commands only start the
sequencer (41 R159). -/
theorem exec_faultFree {s : State} (hfree : s.dev.busy = false) (i : Instr) :
    FaultFree (fun t => t.dev = s.dev) (exec i s) := by
  have hramp : isRampOp i = true → FaultFree (fun t => t.dev = s.dev) (exec i s) := fun hi =>
    (ramp_faultFree (exec_rampOp_next hi s) fun q d => exec_rampOp_replaceEeprom q d hi).mono fun _ => And.right
  cases i with
  | setImmediate d1 d2 d3 d4 => exact hramp rfl
  | beginRamp t1 t2 t3 t4 f h => exact hramp rfl
  | isBusy => exact hramp rfl
  | onTick => exact hramp rfl
  | sensorHandler => rfl
  | rxHandler => rfl
  | capacity => rfl
  | probe => exact (transportPresent_faultFree hfree).andThen fun _ hdev => hdev
  | readByte a => exact (transportGet_faultFree hfree a.toNat).andThen fun _ hdev => hdev
  | readBuffer a n => exact (transportGetBuffer_faultFree hfree a.toNat n.toNat).andThen fun _ hdev => hdev
  | writeByte a v =>
    simp only [exec, execWriteByte]
    split
    · rfl
    · trivial
  | writeBuffer a bytes =>
    simp only [exec, execWriteBuffer]
    split
    · rfl
    · split
      · rfl
      · trivial

/-! The cover depends on the serializer and the device only, and a device that is not busy needs none. -/

theorem CycleCovered.of_unchanged {s t : State} (hcover : CycleCovered s) (hser : t.ser = s.ser)
    (hdev : t.dev = s.dev) : CycleCovered t := by
  rw [CycleCovered, hser, hdev]
  exact hcover

theorem cycleCovered_of_free {s : State} (hfree : s.dev.busy = false) : CycleCovered s := by
  simp [CycleCovered, hfree]

/-- Outside a settle a covered device is free. -/
theorem CycleCovered.free {s : State} (hcover : CycleCovered s) (hphase : s.ser.phase ≠ .settle) :
    s.dev.busy = false :=
  Bool.eq_false_iff.mpr (mt hcover hphase)

section Covered

variable {s : State} (hcover : CycleCovered s)
include hcover

/-- A ready port means an idle serializer (10 R30), so the device is free when a command is issued. -/
theorem hostMove_keepsCover (hready : s.port.cmdReady = true → s.ser.phase = .idle) :
    FaultFree CycleCovered (hostMove s) := by
  unfold hostMove
  split
  · exact hcover
  · split
    · rename_i hport
      have hfree : s.dev.busy = false := hcover.free (by simp [hready hport])
      split
      · rename_i rest _ _ i left _
        have hexec := exec_faultFree (s := takeCommand rest left s) hfree i
        exact hexec.mono fun t hdev => cycleCovered_of_free (by rw [hdev]; exact hfree)
      · trivial
    · exact hcover

/-- A transfer finds the device free; it either begins the settle that covers its write cycle or completes the command
without a transaction. -/
theorem transferMove_keepsCover : FaultFree CycleCovered (transferMove s) := by
  unfold transferMove
  split
  · rename_i hphase
    have hfree : s.dev.busy = false := hcover.free (by simp [hphase])
    unfold transferStep
    split
    · exact cycleCovered_of_free hfree
    · exact (nextTransaction_faultFree hfree).andThen fun _ _ _ => rfl
  · exact hcover

theorem settleMove_keepsCover : FaultFree CycleCovered (settleMove s) := by
  unfold settleMove
  split
  · exact cycleCovered_of_free rfl
  · exact hcover

theorem deviceMove_keepsCover : FaultFree CycleCovered (deviceMove s) := by
  unfold deviceMove
  split
  · exact hcover
  · exact cycleCovered_of_free rfl

theorem rampMove_keepsCover {m : Move} (hm : isRampMove m = true) : FaultFree CycleCovered (runMove m s) :=
  (ramp_faultFree (runMove_rampMove_next hm s) fun q d => runMove_rampMove_replaceEeprom q d hm).mono
    fun _ ⟨hser, hdev⟩ => hcover.of_unchanged hser hdev

theorem runMove_keepsCover (hready : s.port.cmdReady = true → s.ser.phase = .idle) {m : Move} (hm : m ≠ .reset) :
    FaultFree CycleCovered (runMove m s) := by
  cases m with
  | host => exact hostMove_keepsCover hcover hready
  | raise ev => exact rampMove_keepsCover hcover rfl
  | entry => exact rampMove_keepsCover hcover rfl
  | transfer => exact transferMove_keepsCover hcover
  | settleDone => exact settleMove_keepsCover hcover
  | deviceDone => exact deviceMove_keepsCover hcover
  | applyImmediate => exact rampMove_keepsCover hcover rfl
  | setPresent b => exact hcover
  | reset => exact absurd rfl hm

end Covered

/-- Settles O58: of the invariants only "a ready port means an idle serializer" is needed; every move but the reset is
fault-free and keeps the cover. -/
theorem settleCoversWriteCycle : Obligations.SettleCoversWriteCycle := by
  intro s hinv hcover hreset
  have hready : s.port.cmdReady = true → s.ser.phase = .idle := fun h => (hinv.port.ready_iff.mp h).1
  refine faultFree_iff.mp ?_
  cases hsched : s.schedule with
  | nil =>
    rw [step_nil hsched]
    exact hcover
  | cons m rest =>
    have hm : m ≠ .reset := fun h => hreset rest (h ▸ hsched)
    rw [step_cons hsched]
    exact runMove_keepsCover (s := { s with schedule := rest }) hcover hready hm

end Sys2Proof.Machine
end

section
/-! SUPPORT AND PROOFS for the family 30_encoding.md: a command word is the concatenation of its fields, so a row of
the opcode map is hit exactly when certain fields have certain values (30 R92, R99). From this decode and encode
invert each other, no two rows overlap, and the host's move runs or refuses what it decodes (30 R91, R95, R103). -/

namespace Sys2Proof

/-! ### A command word and its fields -/

/-- `cmd[23:0]`, the zero bits at the end of formats Q and M (30 R92). -/
def paddingField (w : CmdWord) : BitVec 24 := w.extractLsb' 0 24

/-- The fields of format R cover the word. -/
theorem wordR_fields (w : CmdWord) :
    wordR (opcodeField w) (duty1Field w) (duty2Field w) (duty3Field w) (duty4Field w) (fadeField w) (holdField w) =
      w := by
  have joined : (opcodeField w ++ duty1Field w ++ duty2Field w ++ duty3Field w ++ duty4Field w ++ fadeField w ++
      holdField w : BitVec (8 + 8 + 8 + 8 + 8 + 16 + 16)) = w.extractLsb' 0 (8 + 8 + 8 + 8 + 8 + 16 + 16) := by
    simp only [opcodeField, duty1Field, duty2Field, duty3Field, duty4Field, fadeField, holdField,
      BitVec.extractLsb'_append_extractLsb'_eq_extractLsb']
  exact joined.trans BitVec.extractLsb'_eq_self

/-- The fields of format M, with the padding, cover the word. -/
theorem append_fieldsM (w : CmdWord) :
    (opcodeField w ++ addressField w ++ lengthField w ++ valueField w ++ paddingField w :
      BitVec (8 + 16 + 16 + 8 + 24)) = w := by
  have joined : (opcodeField w ++ addressField w ++ lengthField w ++ valueField w ++ paddingField w :
      BitVec (8 + 16 + 16 + 8 + 24)) = w.extractLsb' 0 (8 + 16 + 16 + 8 + 24) := by
    simp only [opcodeField, addressField, lengthField, valueField, paddingField,
      BitVec.extractLsb'_append_extractLsb'_eq_extractLsb']
  exact joined.trans BitVec.extractLsb'_eq_self

theorem eq_iff_fieldsR (w w' : CmdWord) :
    w = w' ↔
      opcodeField w = opcodeField w' ∧ duty1Field w = duty1Field w' ∧ duty2Field w = duty2Field w' ∧
        duty3Field w = duty3Field w' ∧ duty4Field w = duty4Field w' ∧ fadeField w = fadeField w' ∧
        holdField w = holdField w' := by
  constructor
  · rintro rfl
    simp
  · rintro ⟨hop, h1, h2, h3, h4, hfade, hhold⟩
    rw [← wordR_fields w, ← wordR_fields w', hop, h1, h2, h3, h4, hfade, hhold]

theorem eq_iff_fieldsM (w w' : CmdWord) :
    w = w' ↔
      opcodeField w = opcodeField w' ∧ addressField w = addressField w' ∧ lengthField w = lengthField w' ∧
        valueField w = valueField w' ∧ paddingField w = paddingField w' := by
  constructor
  · rintro rfl
    simp
  · rintro ⟨hop, haddress, hlength, hvalue, hpadding⟩
    rw [← append_fieldsM w, ← append_fieldsM w', hop, haddress, hlength, hvalue, hpadding]

/-- A concatenation determines its two parts. -/
theorem append_inj {v w : Nat} {x x' : BitVec v} {y y' : BitVec w} (h : x ++ y = x' ++ y') : x = x' ∧ y = y' :=
  ⟨by simpa only [BitVec.extractLsb'_append_eq_left] using congrArg (BitVec.extractLsb' w v) h,
    by simpa only [BitVec.extractLsb'_append_eq_right] using congrArg (BitVec.extractLsb' 0 w) h⟩

/-- The fields of a format I or format R word are what it was built from. -/
@[simp] theorem fields_wordR (op d1 d2 d3 d4 : Byte) (f h : BitVec 16) :
    opcodeField (wordR op d1 d2 d3 d4 f h) = op ∧ duty1Field (wordR op d1 d2 d3 d4 f h) = d1 ∧
      duty2Field (wordR op d1 d2 d3 d4 f h) = d2 ∧ duty3Field (wordR op d1 d2 d3 d4 f h) = d3 ∧
      duty4Field (wordR op d1 d2 d3 d4 f h) = d4 ∧ fadeField (wordR op d1 d2 d3 d4 f h) = f ∧
      holdField (wordR op d1 d2 d3 d4 f h) = h := by
  obtain ⟨hparts, hhold⟩ := append_inj (wordR_fields (wordR op d1 d2 d3 d4 f h))
  obtain ⟨hparts, hfade⟩ := append_inj hparts
  obtain ⟨hparts, h4⟩ := append_inj hparts
  obtain ⟨hparts, h3⟩ := append_inj hparts
  obtain ⟨hparts, h2⟩ := append_inj hparts
  obtain ⟨hop, h1⟩ := append_inj hparts
  exact ⟨hop, h1, h2, h3, h4, hfade, hhold⟩

/-- The fields of a format Q or format M word are what it was built from. -/
@[simp] theorem fields_wordM (op : Byte) (a n : BitVec 16) (v : Byte) :
    opcodeField (wordM op a n v) = op ∧ addressField (wordM op a n v) = a ∧ lengthField (wordM op a n v) = n ∧
      valueField (wordM op a n v) = v ∧ paddingField (wordM op a n v) = 0 := by
  obtain ⟨hparts, hpadding⟩ := append_inj (append_fieldsM (wordM op a n v))
  obtain ⟨hparts, hvalue⟩ := append_inj hparts
  obtain ⟨hparts, hlength⟩ := append_inj hparts
  obtain ⟨hop, haddress⟩ := append_inj hparts
  exact ⟨hop, haddress, hlength, hvalue, hpadding⟩

/-! ### The rows of the opcode map, field by field -/

/-- The mask of a row acts on each field of format R by itself. -/
theorem OpRow.hits_iff_fieldsR (r : OpRow) (w : CmdWord) :
    r.hits w = true ↔
      opcodeField w &&& opcodeField r.mask = opcodeField r.pattern ∧
        duty1Field w &&& duty1Field r.mask = duty1Field r.pattern ∧
        duty2Field w &&& duty2Field r.mask = duty2Field r.pattern ∧
        duty3Field w &&& duty3Field r.mask = duty3Field r.pattern ∧
        duty4Field w &&& duty4Field r.mask = duty4Field r.pattern ∧
        fadeField w &&& fadeField r.mask = fadeField r.pattern ∧
        holdField w &&& holdField r.mask = holdField r.pattern := by
  rw [OpRow.hits, beq_iff_eq, eq_iff_fieldsR]
  simp only [opcodeField, duty1Field, duty2Field, duty3Field, duty4Field, fadeField, holdField,
    BitVec.extractLsb'_and]

/-- The mask of a row acts on each field of format M by itself. -/
theorem OpRow.hits_iff_fieldsM (r : OpRow) (w : CmdWord) :
    r.hits w = true ↔
      opcodeField w &&& opcodeField r.mask = opcodeField r.pattern ∧
        addressField w &&& addressField r.mask = addressField r.pattern ∧
        lengthField w &&& lengthField r.mask = lengthField r.pattern ∧
        valueField w &&& valueField r.mask = valueField r.pattern ∧
        paddingField w &&& paddingField r.mask = paddingField r.pattern := by
  rw [OpRow.hits, beq_iff_eq, eq_iff_fieldsM]
  simp only [opcodeField, addressField, lengthField, valueField, paddingField, BitVec.extractLsb'_and]

/-- A row reads an opcode byte in full, so a word it hits has the opcode of its pattern. -/
theorem OpRow.opcodeField_of_hits {r : OpRow} (hr : r ∈ opcodeMap) {w : CmdWord} (h : r.hits w = true) :
    opcodeField w = opcodeField r.pattern := by
  have hmask : ∀ q ∈ opcodeMap, opcodeField q.mask = BitVec.allOnes 8 := by decide
  have hop := ((hits_iff_fieldsM r w).mp h).1
  rwa [hmask r hr, BitVec.and_allOnes] at hop

theorem and_ones8 (x : Byte) : x &&& 255#8 = x := BitVec.and_allOnes

theorem and_ones16 (x : BitVec 16) : x &&& 65535#16 = x := BitVec.and_allOnes

theorem and_ones24 (x : BitVec 24) : x &&& 16777215#24 = x := BitVec.and_allOnes

@[simp] theorem rowSetImmediate_hits (w : CmdWord) :
    rowSetImmediate.hits w = true ↔ opcodeField w = 0x01 ∧ fadeField w = 0 ∧ holdField w = 0 := by
  simp [OpRow.hits_iff_fieldsR, rowSetImmediate, opcodeField, duty1Field, duty2Field, duty3Field, duty4Field, fadeField,
    holdField, and_ones8, and_ones16]

@[simp] theorem rowBeginRamp_hits (w : CmdWord) : rowBeginRamp.hits w = true ↔ opcodeField w = 0x02 := by
  simp [OpRow.hits_iff_fieldsR, rowBeginRamp, opcodeField, duty1Field, duty2Field, duty3Field, duty4Field, fadeField,
    holdField, and_ones8]

@[simp] theorem rowIsBusy_hits (w : CmdWord) :
    rowIsBusy.hits w = true ↔
      opcodeField w = 0x03 ∧ addressField w = 0 ∧ lengthField w = 0 ∧ valueField w = 0 ∧
        paddingField w = 0 := by
  simp [OpRow.hits_iff_fieldsM, rowIsBusy, opcodeField, addressField, lengthField, valueField, paddingField,
    and_ones8, and_ones16, and_ones24]

@[simp] theorem rowProbe_hits (w : CmdWord) :
    rowProbe.hits w = true ↔
      opcodeField w = 0x10 ∧ addressField w = 0 ∧ lengthField w = 0 ∧ valueField w = 0 ∧
        paddingField w = 0 := by
  simp [OpRow.hits_iff_fieldsM, rowProbe, opcodeField, addressField, lengthField, valueField, paddingField,
    and_ones8, and_ones16, and_ones24]

@[simp] theorem rowCapacity_hits (w : CmdWord) :
    rowCapacity.hits w = true ↔
      opcodeField w = 0x11 ∧ addressField w = 0 ∧ lengthField w = 0 ∧ valueField w = 0 ∧
        paddingField w = 0 := by
  simp [OpRow.hits_iff_fieldsM, rowCapacity, opcodeField, addressField, lengthField, valueField, paddingField,
    and_ones8, and_ones16, and_ones24]

@[simp] theorem rowReadByte_hits (w : CmdWord) :
    rowReadByte.hits w = true ↔
      opcodeField w = 0x12 ∧ lengthField w = 0 ∧ valueField w = 0 ∧ paddingField w = 0 := by
  simp [OpRow.hits_iff_fieldsM, rowReadByte, opcodeField, addressField, lengthField, valueField, paddingField,
    and_ones8, and_ones16, and_ones24]

@[simp] theorem rowReadBuffer_hits (w : CmdWord) :
    rowReadBuffer.hits w = true ↔ opcodeField w = 0x13 ∧ valueField w = 0 ∧ paddingField w = 0 := by
  simp [OpRow.hits_iff_fieldsM, rowReadBuffer, opcodeField, addressField, lengthField, valueField, paddingField,
    and_ones8, and_ones24]

@[simp] theorem rowWriteByte_hits (w : CmdWord) :
    rowWriteByte.hits w = true ↔ opcodeField w = 0x14 ∧ lengthField w = 0 ∧ paddingField w = 0 := by
  simp [OpRow.hits_iff_fieldsM, rowWriteByte, opcodeField, addressField, lengthField, valueField, paddingField,
    and_ones8, and_ones16, and_ones24]

@[simp] theorem rowWriteBuffer_hits (w : CmdWord) :
    rowWriteBuffer.hits w = true ↔ opcodeField w = 0x15 ∧ valueField w = 0 ∧ paddingField w = 0 := by
  simp [OpRow.hits_iff_fieldsM, rowWriteBuffer, opcodeField, addressField, lengthField, valueField, paddingField,
    and_ones8, and_ones24]

/-! ### What a command word decodes to -/

/-- A payload is taken exactly when the stream begins with that many bytes. -/
theorem takePayload_eq_ok_iff {a : BitVec 16} {n : Nat} {stream left : List Byte} {i : Instr} :
    takePayload a n stream = .ok (i, left) ↔
      ∃ bytes, i = .writeBuffer a bytes ∧ bytes.length = n ∧ bytes ++ left = stream := by
  unfold takePayload
  constructor
  · intro h
    split at h
    · cases h
    · cases h
      exact ⟨stream.take n, rfl, by rw [List.length_take]; omega, List.take_append_drop n stream⟩
  · rintro ⟨bytes, rfl, rfl, rfl⟩
    simp

theorem takePayload_short (a : BitVec 16) {n : Nat} {stream : List Byte} (h : stream.length < n) :
    takePayload a n stream = .error .payloadShort := by
  simp [takePayload, h]

theorem decodeCommand_writeBuffer (a n : BitVec 16) (stream : List Byte) :
    decodeCommand (wordM 0x15 a n 0) stream = takePayload a n.toNat stream := by
  simp [decodeCommand]

/-- The word and the payload that encode an instruction decode to it, and leave what follows the payload. -/
theorem decodeCommand_encode {i : Instr} {w : CmdWord} {payload : List Byte} (hi : i.WellFormed)
    (h : encode i = .command w payload) (more : List Byte) :
    decodeCommand w (payload ++ more) = .ok (i, more) := by
  cases i with
  | onTick | sensorHandler | rxHandler => cases h
  | writeBuffer a =>
    cases h
    have hfits : payload.length < 2 ^ 16 := of_decide_eq_true hi
    rw [decodeCommand_writeBuffer, takePayload_eq_ok_iff]
    exact ⟨payload, rfl, by rw [BitVec.toNat_ofNat, Nat.mod_eq_of_lt hfits], rfl⟩
  | _ =>
    cases h
    simp [decodeCommand]

/-- What a word decodes to is well formed and encodes to that word, with the part of the stream that was taken: each
row fixes the fields that its instruction has no operand for (30 R99). -/
theorem encode_decodeCommand {w : CmdWord} {stream left : List Byte} {i : Instr}
    (h : decodeCommand w stream = .ok (i, left)) :
    i.WellFormed ∧ ∃ payload, encode i = .command w payload ∧ payload ++ left = stream := by
  have plain : ∀ j : Instr, j.WellFormed → encode j = .command w [] →
      (.ok (j, stream) : Except DecodeError (Instr × List Byte)) = .ok (i, left) →
      i.WellFormed ∧ ∃ payload, encode i = .command w payload ∧ payload ++ left = stream := by
    intro j hj hencode hok
    cases hok
    exact ⟨hj, [], hencode, rfl⟩
  unfold decodeCommand at h
  split_ifs at h with hrow hrow hrow hrow hrow hrow hrow hrow hrow
  · exact plain _ rfl (by simp [encode, eq_iff_fieldsR, (rowSetImmediate_hits w).mp hrow]) h
  · exact plain _ rfl (by simp [encode, eq_iff_fieldsR, (rowBeginRamp_hits w).mp hrow]) h
  · exact plain _ rfl (by simp [encode, eq_iff_fieldsM, (rowIsBusy_hits w).mp hrow]) h
  · exact plain _ rfl (by simp [encode, eq_iff_fieldsM, (rowProbe_hits w).mp hrow]) h
  · exact plain _ rfl (by simp [encode, eq_iff_fieldsM, (rowCapacity_hits w).mp hrow]) h
  · exact plain _ rfl (by simp [encode, eq_iff_fieldsM, (rowReadByte_hits w).mp hrow]) h
  · exact plain _ rfl (by simp [encode, eq_iff_fieldsM, (rowReadBuffer_hits w).mp hrow]) h
  · exact plain _ rfl (by simp [encode, eq_iff_fieldsM, (rowWriteByte_hits w).mp hrow]) h
  · obtain ⟨bytes, rfl, hlength, hstream⟩ := takePayload_eq_ok_iff.mp h
    have hfits : bytes.length < 65536 := hlength ▸ (lengthField w).isLt
    exact ⟨decide_eq_true hfits, bytes,
      by simp [encode, eq_iff_fieldsM, (rowWriteBuffer_hits w).mp hrow, hlength], hstream⟩

/-- An event's own line selects its handler (30 R102). -/
theorem decodeEvents_encode {i : Instr} {ev : EventLines} (h : encode i = .event ev) : decodeEvents ev = some i := by
  cases i with
  | onTick | sensorHandler | rxHandler =>
    cases h
    rfl
  | _ => cases h

/-- A word that no row hits is rejected by the name of what is reserved in it (30 R103). -/
theorem decodeCommand_reserved {w : CmdWord} (h : ∀ r ∈ opcodeMap, r.hits w = false) (stream : List Byte) :
    decodeCommand w stream =
      .error (if definedOpcode (opcodeField w) then .reservedField else .reservedOpcode) := by
  simp only [opcodeMap, List.forall_mem_cons] at h
  obtain ⟨h1, h2, h3, h4, h5, h6, h7, h8, h9, _⟩ := h
  simp only [decodeCommand, h1, h2, h3, h4, h5, h6, h7, h8, h9, Bool.false_eq_true, if_false]
  split <;> rfl

/-! ### The obligations on the code -/

/-- Settles O1: a command is decoded by the row its word is in, an event by its line. -/
theorem decodeEncodeRoundTrip : Obligations.DecodeEncodeRoundTrip := by
  intro i more hi
  refine ⟨?_, fun w stream h => decodeCommand_encode hi h more⟩
  cases h : encode i with
  | command w stream => exact ⟨more, decodeCommand_encode hi h more⟩
  | event ev => exact ⟨[], by simp [PortInput.followedBy, decode, decodeEvents_encode h]⟩

/-- Settles O2: each row fixes every field that is not an operand, so the fields give back the word. -/
theorem encodeDecodedCommand : Obligations.EncodeDecodedCommand := fun _ _ _ _ h => encode_decodeCommand h

/-- Settles O3: every row reads the whole opcode byte, and no two rows ask for the same one. -/
theorem opcodeRowsDisjoint : Obligations.OpcodeRowsDisjoint := by
  have hdistinct : opcodeMap.Pairwise fun r q => opcodeField r.pattern ≠ opcodeField q.pattern := by decide
  refine hdistinct.imp_of_mem fun hr hq hne w ⟨hrw, hqw⟩ => hne ?_
  rw [← OpRow.opcodeField_of_hits hr hrw, ← OpRow.opcodeField_of_hits hq hqw]

/-- Settles O6, by evaluating the decoder. -/
theorem wordsOfTheSpecDecode : Obligations.WordsOfTheSpecDecode :=
  ⟨rfl, rfl, rfl, rfl, rfl, rfl, rfl, rfl⟩

end Sys2Proof

/-! ### The host's move -/

namespace Sys2Proof.Machine

section HostMove

variable {s : State} {c : HostCommand} {rest : List HostCommand} {moves : List Move}

/-- An issued command that decodes is executed (30 R91). -/
theorem hostMove_ok (hqueue : s.hostQueue = c :: rest) (hready : s.port.cmdReady = true) {i : Instr}
    {left : List Byte} (hok : decode (portInput c s) = .ok (i, left)) :
    hostMove s = exec i (takeCommand rest left s) := by
  simp [hostMove, hqueue, hready, hok]

/-- An issued command that does not decode stops the machine (30 R103). -/
theorem hostMove_error (hqueue : s.hostQueue = c :: rest) (hready : s.port.cmdReady = true) {e : DecodeError}
    (herror : decode (portInput c s) = .error e) : hostMove s = .refused (refusalOf e) := by
  simp [hostMove, hqueue, hready, herror]

theorem step_host_ok (hsched : s.schedule = .host :: moves) (hqueue : s.hostQueue = c :: rest)
    (hready : s.port.cmdReady = true) {i : Instr} {left : List Byte} (hok : decode (portInput c s) = .ok (i, left)) :
    step s = exec i (takeCommand rest left { s with schedule := moves }) :=
  (step_cons hsched).trans (hostMove_ok (s := { s with schedule := moves }) hqueue hready hok)

theorem step_host_error (hsched : s.schedule = .host :: moves) (hqueue : s.hostQueue = c :: rest)
    (hready : s.port.cmdReady = true) {e : DecodeError} (herror : decode (portInput c s) = .error e) :
    step s = .refused (refusalOf e) :=
  (step_cons hsched).trans (hostMove_error (s := { s with schedule := moves }) hqueue hready herror)

end HostMove

/-- Settles O4: the host's move stops with the refusal of the decoder's error. -/
theorem reservedWordsRefused : Obligations.ReservedWordsRefused := by
  intro s c rest moves hsched hqueue hready hnone
  rw [step_host_error hsched hqueue hready (decodeCommand_reserved hnone _)]
  split <;> rfl

/-- Settles O5: the word decodes by taking its payload, which the stream is too short for. -/
theorem shortPayloadRefused : Obligations.ShortPayloadRefused := by
  intro a n payload s rest moves hsched hqueue hready hshort
  refine step_host_error hsched hqueue hready (e := .payloadShort) ?_
  change decodeCommand (wordM 0x15 a n 0) (s.port.wdata ++ payload) = _
  rw [decodeCommand_writeBuffer, takePayload_short a (by rwa [List.length_append])]

/-- Settles O7: the move of `step_host_ok`, with the command taken off the port written out. -/
theorem stepRunsIssuedCommand : Obligations.StepRunsIssuedCommand :=
  fun _ _ _ _ _ _ hsched hqueue hready hok => step_host_ok hsched hqueue hready hok

end Sys2Proof.Machine
end

section
/-! SUPPORT AND PROOFS for the family 40_ramp_engine.md, first part: what each operation of the ramp engine does. One
tick acts on the engine by itself; what it does there is written once, as `tickEngine`, and tied to the model by
`tickBody_eq`. -/

namespace Sys2Proof.Machine

/-! ### The four channels -/

theorem duties_ext {d d' : Duties} (h : ∀ c, duty d c = duty d' c) : d = d' := by
  obtain ⟨d1, d2, d3, d4⟩ := d
  obtain ⟨e1, e2, e3, e4⟩ := d'
  obtain rfl : d1 = e1 := h .ch1
  obtain rfl : d2 = e2 := h .ch2
  obtain rfl : d3 = e3 := h .ch3
  obtain rfl : d4 = e4 := h .ch4
  rfl

/-- Each channel moves toward its own target. -/
@[simp] theorem duty_moveAll (cur tgt : Duties) (c : Channel) :
    duty (moveAll cur tgt) c = moveToward (duty cur c) (duty tgt c) := by
  cases c <;> rfl

/-! ### The commands of the ramp engine -/

/-- Phase A of a two-phase `SetImmediate` (40 R122): the ramp is cancelled, the port is not ready and the values wait. -/
def phaseA (d : Duties) (s : State) : State :=
  { cancelRamp s with port := { s.port with cmdReady := false, immWait := some { duties := d, ticked := false } } }

theorem exec_setImmediate_atomic {s : State} (hmode : s.setImmMode = .atomic) (d1 d2 d3 d4 : Byte) :
    exec (.setImmediate d1 d2 d3 d4) s =
      .next (respond 0 [] (applyDuties ⟨d1, d2, d3, d4⟩ (cancelRamp s))) := by
  simp only [exec, execSetImmediate, hmode]

theorem exec_setImmediate_twoPhase {s : State} (hmode : s.setImmMode = .twoPhase) (d1 d2 d3 d4 : Byte) :
    exec (.setImmediate d1 d2 d3 d4) s = .next (phaseA ⟨d1, d2, d3, d4⟩ s) := by
  simp only [exec, execSetImmediate, hmode]
  rfl

theorem busy_eq_false_iff (s : State) : busy s = false ↔ s.engine.tag = .idle := by
  simp [busy]

theorem busy_iff (s : State) : busy s = true ↔ s.engine.tag ≠ .idle := by
  simp [busy]

theorem exec_beginRamp_idle {s : State} (hidle : s.engine.tag = .idle) (t1 t2 t3 t4 : Byte) (f h : BitVec 16) :
    exec (.beginRamp t1 t2 t3 t4 f h) s =
      .next (respond 0 [] { s with engine := acceptRamp ⟨t1, t2, t3, t4⟩ f h s.engine }) := by
  simp only [exec, execBeginRamp, (busy_eq_false_iff s).mpr hidle, Bool.false_eq_true, if_false]

theorem exec_beginRamp_busy {s : State} (hbusy : s.engine.tag ≠ .idle) (t1 t2 t3 t4 : Byte) (f h : BitVec 16) :
    exec (.beginRamp t1 t2 t3 t4 f h) s = .next (respond 0 [] s) := by
  simp only [exec, execBeginRamp, (busy_iff s).mpr hbusy, if_true]

theorem scaleHold_eq (h : BitVec 16) : scaleHold h = BitVec.ofNat 20 (10 * h.toNat) := by
  have hlt := h.isLt
  refine BitVec.eq_of_toNat_eq ?_
  rw [scaleHold_toNat, BitVec.toNat_ofNat]
  omega

theorem widenFade_eq (f : BitVec 16) : widenFade f = BitVec.ofNat 20 f.toNat := by
  have hlt := f.isLt
  refine BitVec.eq_of_toNat_eq ?_
  rw [widenFade_toNat, BitVec.toNat_ofNat]
  omega

/-! ### The tick -/

/-- The tick's decrement as a function of the count (40 R130). -/
def countDown (c : BitVec 20) : BitVec 20 := if c = 0 then 0 else c - 1

theorem countDown_toNat (c : BitVec 20) : (countDown c).toNat = c.toNat - 1 := by
  unfold countDown
  split
  · next hzero => simp [hzero]
  · bv_omega

@[simp] theorem countDown_zero : countDown 0 = 0 := rfl

theorem decrementCount_eq (s : State) :
    decrementCount s = { s with engine := { s.engine with cnt := countDown s.engine.cnt } } := by
  unfold decrementCount countDown
  split
  · next hzero =>
    rw [← hzero]
  · rfl

/-- What a tick does to the engine (40 R125 to R130): the fade step, which ends in the hold or reloads the fade count,
the end of the hold, or the wait; the decrement comes last. -/
def tickEngine (e : Engine) : Engine :=
  if e.tag = .fading ∧ e.cnt = 0 then
    if moveAll e.cur e.tgt = e.tgt then { e with cur := e.tgt, tag := .holding, cnt := countDown e.hold }
    else { e with cur := moveAll e.cur e.tgt, cnt := countDown (widenFade e.fade) }
  else if e.tag = .holding ∧ e.cnt = 0 then { e with tag := .idle }
  else { e with cnt := countDown e.cnt }

section TickEngine

variable {e : Engine}

/-- The fade step that reaches the targets (40 R126). -/
theorem tickEngine_converged (htag : e.tag = .fading) (hcnt : e.cnt = 0) (hmoved : moveAll e.cur e.tgt = e.tgt) :
    tickEngine e = { e with cur := e.tgt, tag := .holding, cnt := countDown e.hold } := by
  simp only [tickEngine, htag, hcnt, hmoved, and_self, if_true]

/-- The fade step that leaves a channel short of its target (40 R126). -/
theorem tickEngine_fades (htag : e.tag = .fading) (hcnt : e.cnt = 0) (hmoved : moveAll e.cur e.tgt ≠ e.tgt) :
    tickEngine e = { e with cur := moveAll e.cur e.tgt, cnt := countDown (widenFade e.fade) } := by
  simp only [tickEngine, htag, hcnt, hmoved, and_self, if_true, if_false]

/-- The end of the hold (40 R128). -/
theorem tickEngine_endsHold (htag : e.tag = .holding) (hcnt : e.cnt = 0) : tickEngine e = { e with tag := .idle } := by
  simp [tickEngine, htag, hcnt]

/-- In `Idle`, or with the count running, neither the fade step nor the end of the hold is due. -/
theorem not_due (h : e.tag = .idle ∨ e.cnt ≠ 0) {t : EngineTag} (ht : t ≠ .idle) : ¬(e.tag = t ∧ e.cnt = 0) := by
  rintro ⟨rfl, hcnt⟩
  exact h.elim ht (absurd hcnt)

/-- The waiting branch (40 R129). -/
theorem tickEngine_waits (h : e.tag = .idle ∨ e.cnt ≠ 0) : tickEngine e = { e with cnt := countDown e.cnt } := by
  rw [tickEngine, if_neg (not_due h (by decide)), if_neg (not_due h (by decide))]

/-- A tick in `Idle` with `cnt` 0 changes nothing (40 R129). -/
theorem tickEngine_rests (htag : e.tag = .idle) (hcnt : e.cnt = 0) : tickEngine e = e := by
  rw [tickEngine_waits (.inl htag), hcnt, countDown_zero, ← hcnt]

/-- The four things a tick can do to the engine. -/
theorem tickEngine_cases (e : Engine) :
    (e.tag = .fading ∧ e.cnt = 0 ∧ moveAll e.cur e.tgt = e.tgt ∧
      tickEngine e = { e with cur := e.tgt, tag := .holding, cnt := countDown e.hold }) ∨
    (e.tag = .fading ∧ e.cnt = 0 ∧ moveAll e.cur e.tgt ≠ e.tgt ∧
      tickEngine e = { e with cur := moveAll e.cur e.tgt, cnt := countDown (widenFade e.fade) }) ∨
    (e.tag = .holding ∧ e.cnt = 0 ∧ tickEngine e = { e with tag := .idle }) ∨
    ((e.tag = .idle ∨ e.cnt ≠ 0) ∧ tickEngine e = { e with cnt := countDown e.cnt }) := by
  by_cases hcnt : e.cnt = 0
  · have htags : e.tag = .idle ∨ e.tag = .fading ∨ e.tag = .holding := by cases e.tag <;> simp
    rcases htags with htag | htag | htag
    · exact .inr (.inr (.inr ⟨.inl htag, tickEngine_waits (.inl htag)⟩))
    · by_cases hmoved : moveAll e.cur e.tgt = e.tgt
      · exact .inl ⟨htag, hcnt, hmoved, tickEngine_converged htag hcnt hmoved⟩
      · exact .inr (.inl ⟨htag, hcnt, hmoved, tickEngine_fades htag hcnt hmoved⟩)
    · exact .inr (.inr (.inl ⟨htag, hcnt, tickEngine_endsHold htag hcnt⟩))
  · exact .inr (.inr (.inr ⟨.inr hcnt, tickEngine_waits (.inr hcnt)⟩))

@[simp] theorem tickEngine_tgt (e : Engine) : (tickEngine e).tgt = e.tgt := by
  rcases tickEngine_cases e with ⟨-, -, -, h⟩ | ⟨-, -, -, h⟩ | ⟨-, -, h⟩ | ⟨-, h⟩ <;> rw [h]

@[simp] theorem tickEngine_fade (e : Engine) : (tickEngine e).fade = e.fade := by
  rcases tickEngine_cases e with ⟨-, -, -, h⟩ | ⟨-, -, -, h⟩ | ⟨-, -, h⟩ | ⟨-, h⟩ <;> rw [h]

@[simp] theorem tickEngine_hold (e : Engine) : (tickEngine e).hold = e.hold := by
  rcases tickEngine_cases e with ⟨-, -, -, h⟩ | ⟨-, -, -, h⟩ | ⟨-, -, h⟩ | ⟨-, h⟩ <;> rw [h]

end TickEngine

/-- The duty calls of a tick: four on a fade step, none otherwise. -/
def tickCalls (s : State) : State :=
  if s.engine.tag = .fading ∧ s.engine.cnt = 0 then emitAll (moveAll s.engine.cur s.engine.tgt) s else s

/-- The body of a tick: its duty calls, and `tickEngine` on the engine (40 R125). -/
theorem tickBody_eq (s : State) : tickBody s = { tickCalls s with engine := tickEngine s.engine } := by
  unfold tickBody tickBranch tickCalls
  rw [decrementCount_eq]
  split
  · next hfade =>
    obtain ⟨htag, hcnt⟩ := hfade
    by_cases hmoved : moveAll s.engine.cur s.engine.tgt = s.engine.tgt
    · rw [tickEngine_converged htag hcnt hmoved]
      simp only [fadeStep, hmoved, if_true]
      rfl
    · rw [tickEngine_fades htag hcnt hmoved]
      simp only [fadeStep, hmoved, if_false]
      rfl
  · next hfade =>
    split
    · next hhold =>
      obtain ⟨htag, hcnt⟩ := hhold
      rw [tickEngine_endsHold htag hcnt, hcnt, countDown_zero, ← hcnt]
    · next hhold =>
      rw [tickEngine, if_neg hfade, if_neg hhold]

/-- A tick always completes. -/
theorem exec_onTick (s : State) : exec .onTick s = .next (leaveHandler (noteTick (tickBody s))) := rfl

@[simp] theorem tickBody_engine (s : State) : (tickBody s).engine = tickEngine s.engine := by
  rw [tickBody_eq]

/-- A tick that is no fade step makes no duty call. -/
theorem tickBody_silent {s : State} (h : ¬(s.engine.tag = .fading ∧ s.engine.cnt = 0)) :
    tickBody s = { s with engine := tickEngine s.engine } := by
  rw [tickBody_eq, tickCalls, if_neg h]

theorem tickBody_waits {s : State} (h : s.engine.tag = .idle ∨ s.engine.cnt ≠ 0) :
    tickBody s = { s with engine := { s.engine with cnt := countDown s.engine.cnt } } := by
  rw [tickBody_silent (not_due h (by decide)), tickEngine_waits h]

theorem tickBody_endsHold {s : State} (htag : s.engine.tag = .holding) (hcnt : s.engine.cnt = 0) :
    tickBody s = { s with engine := { s.engine with tag := .idle } } := by
  rw [tickBody_silent (by simp [htag]), tickEngine_endsHold htag hcnt]

/-- A fade step makes the four calls (40 R125). -/
theorem tickBody_fadeStep {s : State} (htag : s.engine.tag = .fading) (hcnt : s.engine.cnt = 0) :
    tickBody s =
      { emitAll (moveAll s.engine.cur s.engine.tgt) s with engine := tickEngine s.engine } := by
  rw [tickBody_eq, tickCalls, if_pos ⟨htag, hcnt⟩]

/-- The body of a tick writes the engine, the outputs and the history only. -/
theorem tickBody_frame (s : State) :
    tickBody s =
      { s with engine := tickEngine s.engine, out := (tickBody s).out, history := (tickBody s).history } := by
  by_cases hfade : s.engine.tag = .fading ∧ s.engine.cnt = 0
  · rw [tickBody_fadeStep hfade.1 hfade.2]
    rfl
  · rw [tickBody_silent hfade]

@[simp] theorem tickBody_arb (s : State) : (tickBody s).arb = s.arb := by rw [tickBody_frame]
@[simp] theorem tickBody_port (s : State) : (tickBody s).port = s.port := by rw [tickBody_frame]
@[simp] theorem tickBody_ser (s : State) : (tickBody s).ser = s.ser := by rw [tickBody_frame]
@[simp] theorem tickBody_dev (s : State) : (tickBody s).dev = s.dev := by rw [tickBody_frame]
@[simp] theorem tickBody_setImmMode (s : State) : (tickBody s).setImmMode = s.setImmMode := by rw [tickBody_frame]

/-- After any fade step the moved duties are the current ones. -/
theorem tickEngine_cur_of_fadeStep {e : Engine} (htag : e.tag = .fading) (hcnt : e.cnt = 0) :
    (tickEngine e).cur = moveAll e.cur e.tgt := by
  by_cases hmoved : moveAll e.cur e.tgt = e.tgt
  · rw [tickEngine_converged htag hcnt hmoved, hmoved]
  · rw [tickEngine_fades htag hcnt hmoved]

/-! ### The arbiter's entry -/

/-- What an entry can do: nothing, the tick's handler, or one of the two opaque handlers (60 R204, R206). -/
theorem entryMove_cases {s t : State} (h : entryMove s = .next t) :
    t = s ∨
      (s.arb.inService = false ∧ s.arb.pendPwm = true ∧ exec .onTick (enterHandler s) = .next t) ∨
      t = leaveHandler (enterHandler s) := by
  unfold entryMove at h
  split at h
  · cases h
    exact .inl rfl
  · next hservice =>
    rw [decodeEvents_pending] at h
    by_cases hpwm : s.arb.pendPwm = true
    · rw [if_pos hpwm] at h
      exact .inr (.inl ⟨by simpa using hservice, hpwm, h⟩)
    · rw [if_neg hpwm] at h
      split at h
      · next i hdecode =>
        have hi : i = .sensorHandler ∨ i = .rxHandler := by
          split_ifs at hdecode
          · exact .inl (Option.some.inj hdecode).symm
          · exact .inr (Option.some.inj hdecode).symm
        rcases hi with rfl | rfl <;> cases h <;> exact .inr (.inr rfl)
      · cases h
        exact .inl rfl

/-- With the tick pending and no handler running, the entry is the tick's (60 R204). -/
theorem entryMove_onTick {s : State} (hservice : s.arb.inService = false) (hpwm : s.arb.pendPwm = true) :
    entryMove s = exec .onTick (enterHandler s) := by
  simp [entryMove, hservice, decodeEvents_pending, hpwm]

/-! ### The obligations on the single operations -/

/-- Settles O11: the atomic form cancels the ramp, applies the four duties and responds. -/
theorem setImmediateAppliesAtOnce : Obligations.SetImmediateAppliesAtOnce :=
  fun d1 d2 d3 d4 _ hmode => exec_setImmediate_atomic hmode d1 d2 d3 d4

/-- Settles O13: the accepting branch, with the widened counts as numbers. -/
theorem beginRampAcceptedInIdle : Obligations.BeginRampAcceptedInIdle := by
  intro t1 t2 t3 t4 f h s hidle
  rw [exec_beginRamp_idle hidle, ← scaleHold_eq, ← widenFade_eq]
  rfl

/-- Settles O14: the dropping branch only responds. -/
theorem beginRampDroppedWhileBusy : Obligations.BeginRampDroppedWhileBusy :=
  fun t1 t2 t3 t4 f h _ hbusy => exec_beginRamp_busy hbusy t1 t2 t3 t4 f h

/-- Settles O15: the response word is `busy`, which is a view of the tag. -/
theorem isBusyAnswersTag : Obligations.IsBusyAnswersTag := by
  intro s
  have hword : boolWord (busy s) = if s.engine.tag = .idle then 0 else 1 := by
    by_cases hidle : s.engine.tag = .idle
    · rw [(busy_eq_false_iff s).mpr hidle, if_pos hidle]
      rfl
    · rw [(busy_iff s).mpr hidle, if_neg hidle]
      rfl
  rw [← hword]
  rfl

/-- Settles O16: the waiting branch only counts down. -/
theorem onTickWaits : Obligations.OnTickWaits := by
  intro s hwait
  rw [exec_onTick, tickBody_waits hwait]
  rfl

/-- Settles O17: the second branch only writes the tag, and the count is already 0. -/
theorem onTickEndsHold : Obligations.OnTickEndsHold := by
  intro s htag hcnt
  rw [exec_onTick, tickBody_endsHold htag hcnt]
  rfl

/-- Settles O18: the entry serves the tick, whose handler is O17's. -/
theorem holdEndsWithoutADutyCall : Obligations.HoldEndsWithoutADutyCall := by
  intro s moves hsched hservice hpwm htag hcnt
  have hentry : step s = exec .onTick (enterHandler { s with schedule := moves }) :=
    (step_cons hsched).trans (entryMove_onTick hservice hpwm)
  rw [hentry, onTickEndsHold _ (by simpa using htag) (by simpa using hcnt)]
  exact ⟨_, rfl, by simp [hcnt]⟩

/-- Settles O19: what the fade step leaves in the engine is `tickEngine`; around it stand the four calls, the note and
the handler's end. -/
theorem onTickFadeStep : Obligations.OnTickFadeStep := by
  intro s htag hcnt
  have hcur := tickEngine_cur_of_fadeStep htag hcnt
  refine ⟨_, exec_onTick s, fun c => ?_, fun hdone => ?_, fun hmore => ?_, ?_, ?_, ?_, ?_⟩
  · simp only [leaveHandler_engine, noteTick_engine, tickBody_engine, hcur, duty_moveAll]
    exact ⟨moveToward_up, moveToward_down, fun h => by rw [h, moveToward_self]⟩
  · simp only [leaveHandler_engine, noteTick_engine, tickBody_engine] at hdone ⊢
    rw [tickEngine_converged htag hcnt (hcur ▸ hdone)]
    exact ⟨rfl, countDown_toNat _⟩
  · simp only [leaveHandler_engine, noteTick_engine, tickBody_engine] at hmore ⊢
    rw [tickEngine_fades htag hcnt (hcur ▸ hmore)]
    exact ⟨htag, by rw [countDown_toNat, widenFade_toNat]⟩
  · simp
  · simp
  · simp
  · simp only [leaveHandler_engine, noteTick_engine, tickBody_engine, hcur]
    rw [tickBody_fadeStep htag hcnt]
    rfl

/-- Between the old duty and the target, at most one unit away, and no farther off (40 R127, R136). -/
theorem moveToward_between (c t : Byte) :
    min c.toNat t.toNat ≤ (moveToward c t).toNat ∧ (moveToward c t).toNat ≤ max c.toNat t.toNat ∧
      (moveToward c t).toNat ≤ c.toNat + 1 ∧ c.toNat ≤ (moveToward c t).toNat + 1 := by
  rcases Nat.lt_trichotomy c.toNat t.toNat with h | h | h
  · rw [moveToward_up h]
    omega
  · rw [BitVec.eq_of_toNat_eq h, moveToward_self]
    omega
  · rw [moveToward_down h]
    omega

/-- A tick leaves a channel where it is or moves it toward its target. -/
theorem duty_tickEngine (e : Engine) (c : Channel) :
    duty (tickEngine e).cur c = duty e.cur c ∨
      duty (tickEngine e).cur c = moveToward (duty e.cur c) (duty e.tgt c) := by
  by_cases hfade : e.tag = .fading ∧ e.cnt = 0
  · right
    rw [tickEngine_cur_of_fadeStep hfade.1 hfade.2, duty_moveAll]
  · left
    rw [tickEngine, if_neg hfade]
    split <;> rfl

/-- Settles O20: a channel stays or makes one move toward its target. -/
theorem channelsMoveMonotonically : Obligations.ChannelsMoveMonotonically := by
  intro s
  refine ⟨_, exec_onTick s, by simp, fun c => ?_⟩
  simp only [leaveHandler_engine, noteTick_engine, tickBody_engine]
  have hbetween := moveToward_between (duty s.engine.cur c) (duty s.engine.tgt c)
  rcases duty_tickEngine s.engine c with h | h <;> rw [h] <;> omega

/-! ### Arithmetic -/

theorem toNat_ofNat_of_le {w k m : Nat} (hk : k ≤ m) (hm : m < 2 ^ w) : (BitVec.ofNat w k).toNat = k := by
  rw [BitVec.toNat_ofNat, Nat.mod_eq_of_lt (by omega)]

/-- An advance of the sequencer is exact where its sums fit their registers (41 R165). -/
theorem advance_toNat {q : Serializer} (ha : q.a.toNat + q.n.toNat < 2 ^ 17)
    (hp : q.p.toNat + q.n.toNat < 2 ^ 16) :
    (advance q).a.toNat = q.a.toNat + chunk q.a.toNat q.n.toNat ∧
      (advance q).p.toNat = q.p.toNat + chunk q.a.toNat q.n.toNat ∧
      (advance q).n.toNat + chunk q.a.toNat q.n.toNat = q.n.toNat := by
  have hk : chunk q.a.toNat q.n.toNat ≤ q.n.toNat := (chunk_bounds _ _).1
  have hn := q.n.isLt
  simp only [advance, BitVec.toNat_add, BitVec.toNat_sub]
  generalize chunk q.a.toNat q.n.toNat = k at hk ⊢
  rw [toNat_ofNat_of_le (w := 17) hk (by omega), toNat_ofNat_of_le (w := 16) hk (by omega)]
  omega

theorem widenAddress_add_toNat (a n : BitVec 16) : (widenAddress a + n.setWidth 17).toNat = a.toNat + n.toNat := by
  have ha := a.isLt
  have hn := n.isLt
  rw [BitVec.toNat_add, widenAddress_toNat, BitVec.toNat_setWidth]
  omega

/-- Settles O21: the rules of `Laws/Ops` for the operands, `countDown` for the counter, `advance_toNat` for the
sequencer. -/
theorem arithmeticNeverWraps : Obligations.ArithmeticNeverWraps := by
  refine ⟨fun c t => ⟨moveToward_up, fun h => ?_, fun h => ?_⟩, fun s => ⟨fun h => ?_, fun h => ?_⟩, fun h => ?_,
    widenFade_toNat, widenAddress_add_toNat, fun q ha hp => advance_toNat (by omega) hp⟩
  · rw [moveToward_down h]
    omega
  · rw [h, moveToward_self]
  · have hpos := BitVec.toNat_pos_of_ne_zero h
    rw [decrementCount_eq]
    change (countDown s.engine.cnt).toNat + 1 = _
    rw [countDown_toNat]
    omega
  · rw [decrementCount_eq, h]
    rfl
  · have hlt := h.isLt
    rw [scaleHold_toNat]
    omega

end Sys2Proof.Machine
end

section
/-! SUPPORT AND PROOFS for the family 40_ramp_engine.md, second part: what one step of the machine can do to the
engine, said once (`EngineStep`), and from it the transition table (40 R132) and the invariants (40 R137). -/

namespace Sys2Proof.Machine

/-! ### What a step does to the engine -/

/-- What completes and commutes with every replacement of the engine, the outputs and the arbiter leaves them alone. -/
theorem serializer_keepsRamp {f : State → Host.Outcome State Fault Refusal}
    (hf : ∀ e o b, Function.Semiconj f (replaceRamp e o b) (mapNext (replaceRamp e o b))) {s t : State}
    (h : f s = .next t) : t.engine = s.engine ∧ t.out = s.out ∧ t.arb = s.arb := by
  have halike := serializer_independent hf s s.engine s.out s.arb
  have hself : replaceRamp s.engine s.out s.arb s = s := rfl
  rw [hself, h] at halike
  obtain ⟨hengine, hout, harb, -⟩ := halike
  exact ⟨hengine, hout, harb⟩

/-- What the host's move can do: nothing, or the command that its queue and the ready port present (30 R91). -/
theorem hostMove_cases {s t : State} (h : hostMove s = .next t) :
    t = s ∨ ∃ c rest i left, s.hostQueue = c :: rest ∧ s.port.cmdReady = true ∧
      decode (portInput c s) = .ok (i, left) ∧ exec i (takeCommand rest left s) = .next t := by
  unfold hostMove at h
  split at h
  · cases h
    exact .inl rfl
  · next c rest hqueue =>
    split at h
    · next hready =>
      split at h
      · next i left hdecode => exact .inr ⟨c, rest, i, left, hqueue, hready, hdecode, h⟩
      · cases h
    · cases h
      exact .inl rfl

/-- What a command can do to the engine: only a `SetImmediate` and an accepted `BeginRamp` write it (40 R120). -/
theorem exec_command_engine {i : Instr} (hi : i ≠ .onTick) {s t : State} (h : exec i s = .next t) :
    t.engine = s.engine ∨
      (∃ d1 d2 d3 d4 cur, i = .setImmediate d1 d2 d3 d4 ∧
        t.engine = { s.engine with cur := cur, tag := .idle, cnt := 0 }) ∨
      ∃ t1 t2 t3 t4 f hold, i = .beginRamp t1 t2 t3 t4 f hold ∧ s.engine.tag = .idle ∧
        t.engine = acceptRamp ⟨t1, t2, t3, t4⟩ f hold s.engine := by
  have hserializer : isSerializerOp i = true → t.engine = s.engine := fun hop =>
    (serializer_keepsRamp (fun e o b => exec_serializerOp_replaceRamp e o b hop) h).1
  cases i with
  | setImmediate d1 d2 d3 d4 =>
    refine .inr (.inl ⟨d1, d2, d3, d4, ?_⟩)
    cases hmode : s.setImmMode with
    | atomic =>
      rw [exec_setImmediate_atomic hmode] at h
      cases h
      exact ⟨⟨d1, d2, d3, d4⟩, rfl, rfl⟩
    | twoPhase =>
      rw [exec_setImmediate_twoPhase hmode] at h
      cases h
      exact ⟨s.engine.cur, rfl, rfl⟩
  | beginRamp t1 t2 t3 t4 f hold =>
    by_cases hidle : s.engine.tag = .idle
    · rw [exec_beginRamp_idle hidle] at h
      cases h
      exact .inr (.inr ⟨t1, t2, t3, t4, f, hold, rfl, hidle, rfl⟩)
    · rw [exec_beginRamp_busy hidle] at h
      cases h
      exact .inl rfl
  | isBusy | sensorHandler | rxHandler => cases h; exact .inl rfl
  | onTick => exact absurd rfl hi
  | probe | capacity | readByte | readBuffer | writeByte | writeBuffer => exact .inl (hserializer rfl)

/-- The host is next to move, and its next command decodes to `i`. -/
def Issues (s : State) (i : Instr) : Prop :=
  ∃ moves c rest left, s.schedule = .host :: moves ∧ s.hostQueue = c :: rest ∧
    decode (portInput c s) = .ok (i, left)

/-- The arbiter is next to move, and it serves the tick (60 R204). -/
structure ServesTick (s : State) : Prop where
  scheduled : ∃ moves, s.schedule = .entry :: moves
  no_service : s.arb.inService = false
  pending : s.arb.pendPwm = true

/-- What a step from `s` can make of the engine, and by which agent (40 R132, with the two ways in which the duties
are written without a change of the tag). -/
inductive EngineStep (s : State) : Engine → Prop
  | kept : EngineStep s s.engine
  | accepted {t1 t2 t3 t4 : Byte} {f h : BitVec 16} (hissue : Issues s (.beginRamp t1 t2 t3 t4 f h))
      (hidle : s.engine.tag = .idle) : EngineStep s (acceptRamp ⟨t1, t2, t3, t4⟩ f h s.engine)
  | cancelled {d1 d2 d3 d4 : Byte} (hissue : Issues s (.setImmediate d1 d2 d3 d4)) (cur : Duties) :
      EngineStep s { s.engine with cur := cur, tag := .idle, cnt := 0 }
  | ticked (hserve : ServesTick s) : EngineStep s (tickEngine s.engine)
  | applied (hwait : s.port.immWait ≠ none) (d : Duties) : EngineStep s { s.engine with cur := d }
  | reset (hsched : ∃ moves, s.schedule = .reset :: moves) :
      EngineStep s { cur := s.resetDuty, tgt := ⟨0, 0, 0, 0⟩, tag := .idle, cnt := 0, fade := 0, hold := 0 }

theorem EngineStep.of_eq {s : State} {e : Engine} (h : e = s.engine) : EngineStep s e := h ▸ .kept

theorem applyImmediateStep_engine (s : State) :
    (applyImmediateStep s).engine = s.engine ∨
      s.port.immWait ≠ none ∧ ∃ d, (applyImmediateStep s).engine = { s.engine with cur := d } := by
  unfold applyImmediateStep
  split
  · next w hwait =>
    split
    · exact .inr ⟨by simp [hwait], w.duties, rfl⟩
    · exact .inl rfl
  · exact .inl rfl

theorem engineStep_host {s t : State} {moves : List Move} (hsched : s.schedule = .host :: moves)
    (h : hostMove { s with schedule := moves } = .next t) : EngineStep s t.engine := by
  rcases hostMove_cases h with rfl | ⟨c, rest, i, left, hqueue, -, hdecode, hexec⟩
  · exact .kept
  · have hissue : Issues s i := ⟨moves, c, rest, left, hsched, hqueue, hdecode⟩
    rcases exec_command_engine (decodeCommand_not_handler hdecode).1 hexec with
      hkept | ⟨d1, d2, d3, d4, cur, rfl, hengine⟩ | ⟨t1, t2, t3, t4, f, hold, rfl, hidle, hengine⟩
    · exact .of_eq hkept
    · rw [hengine]
      exact .cancelled hissue cur
    · rw [hengine]
      exact .accepted hissue hidle

theorem engineStep_entry {s t : State} {moves : List Move} (hsched : s.schedule = .entry :: moves)
    (h : entryMove { s with schedule := moves } = .next t) : EngineStep s t.engine := by
  rcases entryMove_cases h with rfl | ⟨hservice, hpwm, htick⟩ | rfl
  · exact .kept
  · cases htick
    simp only [leaveHandler_engine, noteTick_engine, tickBody_engine, enterHandler_engine]
    exact .ticked ⟨⟨moves, hsched⟩, hservice, hpwm⟩
  · exact .of_eq (by simp)

/-- The rest of the moves belong to the serializer's side, or write no engine. -/
theorem engineStep {s t : State} (h : step s = .next t) : EngineStep s t.engine := by
  rcases step_cases h with ⟨-, rfl⟩ | ⟨m, moves, hsched, hmove⟩
  · exact .kept
  · have hserializer : isSerializerMove m = true → EngineStep s t.engine := fun hm =>
      .of_eq (serializer_keepsRamp (fun e o b => runMove_serializerMove_replaceRamp e o b hm) hmove).1
    cases m with
    | host => exact engineStep_host hsched hmove
    | entry => exact engineStep_entry hsched hmove
    | raise ev => cases hmove; exact .kept
    | applyImmediate =>
      cases hmove
      rcases applyImmediateStep_engine { s with schedule := moves } with hkept | ⟨hwait, d, hcur⟩
      · exact .of_eq hkept
      · rw [hcur]
        exact EngineStep.applied (s := s) hwait d
    | reset =>
      cases hmove
      rw [resetStep_engine]
      exact .reset ⟨moves, hsched⟩
    | transfer | settleDone | deviceDone | setPresent => exact hserializer rfl

/-! ### The transition table -/

section Table

variable {s : State} {e : Engine} (h : EngineStep s e)
include h

/-- Out of `Idle` only an accepted `BeginRamp` leads. -/
theorem EngineStep.leaves_idle (hidle : s.engine.tag = .idle) (hbusy : e.tag ≠ .idle) :
    e.tag = .fading ∧ ∃ t1 t2 t3 t4 f h, Issues s (.beginRamp t1 t2 t3 t4 f h) := by
  cases h with
  | kept | applied => exact absurd hidle hbusy
  | accepted hissue => exact ⟨rfl, _, _, _, _, _, _, hissue⟩
  | cancelled | reset => exact absurd rfl hbusy
  | ticked => exact absurd (by rw [tickEngine_waits (.inl hidle), hidle]) hbusy

/-- From `Fading` to `Holding` only the tick of the last fade step leads. -/
theorem EngineStep.begins_hold (hfading : s.engine.tag = .fading) (hholding : e.tag = .holding) :
    ServesTick s ∧ s.engine.cnt = 0 ∧ moveAll s.engine.cur s.engine.tgt = s.engine.tgt ∧
      e.cur = s.engine.tgt := by
  cases h with
  | kept | applied => simp [hfading] at hholding
  | accepted | cancelled | reset => cases hholding
  | ticked hserve =>
    rcases tickEngine_cases s.engine with ⟨-, hcnt, hmoved, heq⟩ | ⟨-, -, -, heq⟩ | ⟨-, -, heq⟩ | ⟨-, heq⟩
    · exact ⟨hserve, hcnt, hmoved, by rw [heq]⟩
    all_goals simp [heq, hfading] at hholding

/-- A hold is never followed by a fade without `Idle` in between. -/
theorem EngineStep.not_back_to_fading (hholding : s.engine.tag = .holding) : e.tag ≠ .fading := by
  cases h with
  | kept | applied => simp [hholding]
  | accepted _ hidle => simp [hholding] at hidle
  | cancelled | reset => simp
  | ticked =>
    rcases tickEngine_cases s.engine with ⟨htag, -⟩ | ⟨htag, -⟩ | ⟨-, -, heq⟩ | ⟨-, heq⟩
    · simp [hholding] at htag
    · simp [hholding] at htag
    · simp [heq]
    · simp [heq, hholding]

/-- To `Idle` lead the tick that ends the hold, a reset and a `SetImmediate`. -/
theorem EngineStep.becomes_idle (hbusy : s.engine.tag ≠ .idle) (hidle : e.tag = .idle) :
    (ServesTick s ∧ s.engine.tag = .holding ∧ s.engine.cnt = 0) ∨ (∃ moves, s.schedule = .reset :: moves) ∨
      ∃ d1 d2 d3 d4, Issues s (.setImmediate d1 d2 d3 d4) := by
  cases h with
  | kept | applied => exact absurd hidle hbusy
  | accepted => cases hidle
  | cancelled hissue => exact .inr (.inr ⟨_, _, _, _, hissue⟩)
  | reset hsched => exact .inr (.inl hsched)
  | ticked hserve =>
    rcases tickEngine_cases s.engine with ⟨-, -, -, heq⟩ | ⟨htag, -, -, heq⟩ | ⟨htag, hcnt, -⟩ | ⟨-, heq⟩
    · simp [heq] at hidle
    · simp [heq, htag] at hidle
    · exact .inl ⟨hserve, htag, hcnt⟩
    · exact absurd (by simpa [heq] using hidle) hbusy

end Table

/-- Settles O23, row by row of the table. -/
theorem tagChangesOnlyByTheTable : Obligations.TagChangesOnlyByTheTable := by
  intro s t hstep
  have h := engineStep hstep
  refine ⟨fun hidle hbusy => ?_, fun hfading hholding => ?_, h.not_back_to_fading, fun hholding hidle => ?_,
    fun hfading hidle => ?_⟩
  · obtain ⟨htag, t1, t2, t3, t4, f, hold, moves, c, rest, left, hissue⟩ := h.leaves_idle hidle hbusy
    exact ⟨htag, moves, c, rest, t1, t2, t3, t4, f, hold, left, hissue⟩
  · obtain ⟨hserve, htick⟩ := h.begins_hold hfading hholding
    exact ⟨hserve.scheduled, hserve.no_service, hserve.pending, htick⟩
  · rcases h.becomes_idle (by simp [hholding]) hidle with
      ⟨hserve, -, hcnt⟩ | hreset | ⟨d1, d2, d3, d4, moves, c, rest, left, hissue⟩
    · exact .inl ⟨hserve.scheduled, hserve.no_service, hserve.pending, hcnt⟩
    · exact .inr (.inl hreset)
    · exact .inr (.inr ⟨moves, c, rest, d1, d2, d3, d4, left, hissue⟩)
  · rcases h.becomes_idle (by simp [hfading]) hidle with
      ⟨-, hholding, -⟩ | hreset | ⟨d1, d2, d3, d4, moves, c, rest, left, hissue⟩
    · simp [hfading] at hholding
    · exact .inl hreset
    · exact .inr ⟨moves, c, rest, d1, d2, d3, d4, left, hissue⟩

/-! ### The engine's invariants -/

/-- An idle engine needs its count at 0 and a scaled hold count, nothing else. -/
theorem engineInv_of_idle {e : Engine} (htag : e.tag = .idle) (hcnt : e.cnt = 0)
    (hhold : e.hold.toNat % 10 = 0 ∧ e.hold.toNat ≤ 655350) : EngineInv e where
  idle_count _ := hcnt
  holding_converged h := by simp [htag] at h
  fading_count h := by simp [htag] at h
  holding_count h := by simp [htag] at h
  hold_scaled := hhold

theorem engineInv_acceptRamp (tgt : Duties) (f h : BitVec 16) (e : Engine) : EngineInv (acceptRamp tgt f h e) where
  idle_count htag := by cases htag
  holding_converged htag := by cases htag
  fading_count _ := (widenFade_toNat f).le
  holding_count htag := by cases htag
  hold_scaled := by
    have hlt := h.isLt
    simp only [acceptRamp, scaleHold_toNat]
    omega

theorem EngineInv.tick {e : Engine} (h : EngineInv e) : EngineInv (tickEngine e) := by
  rcases tickEngine_cases e with ⟨-, -, -, heq⟩ | ⟨htag, -, -, heq⟩ | ⟨-, hcnt, heq⟩ | ⟨-, heq⟩ <;> rw [heq]
  case inl =>
    refine ⟨nofun, fun _ => rfl, nofun, fun _ => ?_, h.hold_scaled⟩
    rw [countDown_toNat]
    exact Nat.sub_le _ _
  case inr.inl =>
    refine ⟨by simp [htag], by simp [htag], fun _ => ?_, by simp [htag], h.hold_scaled⟩
    rw [countDown_toNat, widenFade_toNat]
    exact Nat.sub_le _ _
  case inr.inr.inl => exact engineInv_of_idle rfl hcnt h.hold_scaled
  case inr.inr.inr =>
    have hle : (countDown e.cnt).toNat ≤ e.cnt.toNat := by
      rw [countDown_toNat]
      exact Nat.sub_le _ _
    refine ⟨fun htag => ?_, h.holding_converged, fun htag => hle.trans (h.fading_count htag),
      fun htag => hle.trans (h.holding_count htag), h.hold_scaled⟩
    simp only [h.idle_count htag, countDown_zero]

/-- A waiting `SetImmediate` has an idle engine, so writing the duties alone breaks nothing (40 R122). -/
theorem EngineStep.keepsInv {s : State} {e : Engine} (hstep : EngineStep s e) (h : Inv s) : EngineInv e := by
  cases hstep with
  | kept => exact h.engine
  | accepted => exact engineInv_acceptRamp _ _ _ _
  | cancelled => exact engineInv_of_idle rfl rfl h.engine.hold_scaled
  | ticked => exact h.engine.tick
  | applied hwait =>
    have hidle := h.port.wait_idle hwait
    exact engineInv_of_idle hidle (h.engine.idle_count hidle) h.engine.hold_scaled
  | reset => exact engineInv_of_idle rfl rfl ⟨rfl, Nat.zero_le _⟩

/-! ### The invariants of the rest of the machine -/

/-- The invariants but the engine's own and `out = cur`. -/
structure RestInv (s : State) : Prop where
  no_service : s.arb.inService = false
  serializer : SerializerInv s.ser
  port : PortInv s
  device : DeviceInv s

theorem Inv.rest {s : State} (h : Inv s) : RestInv s := ⟨h.no_service, h.serializer, h.port, h.device⟩

/-- The sequencer between two commands. -/
theorem serializerInv_of_idle {q : Serializer} (h : q.phase = .idle) : SerializerInv q :=
  ⟨absurd h, absurd h, absurd h⟩

/-- What a transaction of the sequencer can do: it stores bytes at `ser_a` and starts the device's write cycle. -/
theorem nextTransaction_next {s t : State} (hsend : nextTransaction s = .next t) :
    s.ser.a.toNat < Config.cap ∧ ∃ o k stored,
      t = observe o (countDraws k
        (startCycle s.ser.a.toNat (Memory.storeFrom s.dev.mem s.ser.a.toNat 0 stored) s)) := by
  unfold nextTransaction at hsend
  split at hsend
  · split at hsend
    · cases hsend
    · obtain ⟨ha, -, rfl⟩ := transportSend_next hsend
      exact ⟨ha, _, _, _, rfl⟩
  · obtain ⟨-, ha, -, rfl⟩ := transportSendBuffer_next hsend
    exact ⟨ha, _, _, _, rfl⟩

/-- An advance moves the pointers and the count by the same chunk (41 R159, R160). -/
theorem SerializerInv.advance {q : Serializer} (h : SerializerInv q) (hphase : q.phase ≠ .idle) :
    SerializerInv (advance q) := by
  obtain ⟨hrequest, hlength⟩ := h.request hphase
  have hrange := h.in_range hphase
  simp only [Config.cap] at hlength hrange
  obtain ⟨ha, hp, hn⟩ := advance_toNat (q := q) (by omega) (by omega)
  have hbuf : (Machine.advance q).buf = q.buf := rfl
  refine ⟨fun _ => ?_, fun _ => ?_, fun _ => h.one_byte hphase⟩
  · rw [hbuf]
    simp only [Config.cap]
    omega
  · simp only [Config.cap]
    omega

section Rest

variable {s : State} (h : RestInv s)
include h

/-- A ready port means that no command is in progress (10 R30). -/
theorem RestInv.free_of_ready (hready : s.port.cmdReady = true) : s.ser.phase = .idle ∧ s.port.immWait = none :=
  h.port.ready_iff.mp hready

/-- What leaves the serializer, the device and the port's standing alone keeps these invariants, provided a waiting
`SetImmediate` still finds the engine idle. -/
theorem RestInv.of_unchanged {t : State} (hservice : t.arb.inService = false) (hser : t.ser = s.ser)
    (hdev : t.dev = s.dev) (hready : t.port.cmdReady = s.port.cmdReady)
    (hwait : t.port.immWait = none ↔ s.port.immWait = none)
    (hidle : s.port.immWait ≠ none → t.engine.tag = .idle) : RestInv t where
  no_service := hservice
  serializer := by rw [hser]; exact h.serializer
  port :=
    { ready_iff := by rw [hready, hser, hwait]; exact h.port.ready_iff
      one_command := by rw [hser, hwait]; exact h.port.one_command
      wait_idle := hidle ∘ mt hwait.mpr }
  device :=
    { mem_wf := by rw [hdev]; exact h.device.mem_wf
      page_exists := by rw [hdev]; exact h.device.page_exists
      settle_busy := by rw [hser, hdev]; exact h.device.settle_busy }

/-- A command that completes at once, and so leaves the port ready, has no `SetImmediate` waiting. -/
theorem RestInv.of_ready {t : State} (hport : s.port.cmdReady = true) (harb : t.arb = s.arb) (hser : t.ser = s.ser)
    (hdev : t.dev = s.dev) (hready : t.port.cmdReady = s.port.cmdReady)
    (hwait : t.port.immWait = s.port.immWait) : RestInv t :=
  h.of_unchanged (by rw [harb]; exact h.no_service) hser hdev hready (by rw [hwait])
    (absurd (h.free_of_ready hport).2)

/-- A write command starts with its whole request left, in range (41 R158, R159). -/
theorem RestInv.startWrite (hport : s.port.cmdReady = true) {single : Bool} {a : BitVec 16} {bytes : List Byte}
    (hrange : a.toNat + bytes.length ≤ Config.cap) (hsingle : single = true → bytes.length = 1) :
    RestInv (startWrite single a bytes s) := by
  have hwait := (h.free_of_ready hport).2
  have hfits : (BitVec.ofNat 16 bytes.length).toNat = bytes.length := by
    rw [BitVec.toNat_ofNat]
    simp only [Config.cap] at hrange
    omega
  refine ⟨h.no_service, ⟨fun _ => ?_, fun _ => ?_, fun _ => hsingle⟩, ⟨by simp, fun _ => hwait, absurd hwait⟩,
    ⟨h.device.mem_wf, h.device.page_exists, nofun⟩⟩
  · simp only [startWrite_ser, hfits]
    exact ⟨Nat.zero_add _, by omega⟩
  · simp only [startWrite_ser, hfits, widenAddress_toNat]
    exact hrange

/-- Every command keeps the rest; the write commands start the sequencer, a two-phase `SetImmediate` begins its
wait with the engine idle (40 R122), all others complete at once. -/
theorem RestInv.exec (hport : s.port.cmdReady = true) {i : Instr}
    (hi : i ≠ .onTick ∧ i ≠ .sensorHandler ∧ i ≠ .rxHandler) {t : State} (hexec : exec i s = .next t) :
    RestInv t := by
  obtain ⟨htick, hsensor, hrx⟩ := hi
  obtain ⟨hphase, hwait⟩ := h.free_of_ready hport
  cases i with
  | setImmediate d1 d2 d3 d4 =>
    cases hmode : s.setImmMode with
    | atomic =>
      rw [exec_setImmediate_atomic hmode] at hexec
      cases hexec
      exact h.of_ready hport rfl rfl rfl rfl rfl
    | twoPhase =>
      rw [exec_setImmediate_twoPhase hmode] at hexec
      cases hexec
      exact ⟨h.no_service, h.serializer, ⟨by simp [phaseA], fun hbusy => absurd hphase hbusy, fun _ => rfl⟩,
        ⟨h.device.mem_wf, h.device.page_exists, h.device.settle_busy⟩⟩
  | beginRamp t1 t2 t3 t4 f hold =>
    by_cases hidle : s.engine.tag = .idle
    · rw [exec_beginRamp_idle hidle] at hexec
      cases hexec
      exact h.of_ready hport rfl rfl rfl rfl rfl
    · rw [exec_beginRamp_busy hidle] at hexec
      cases hexec
      exact h.of_ready hport rfl rfl rfl rfl rfl
  | isBusy | capacity => cases hexec; exact h.of_ready hport rfl rfl rfl rfl rfl
  | probe =>
    obtain ⟨⟨b, u⟩, hcall, hresp⟩ := andThen_eq_next hexec
    obtain ⟨-, -, rfl⟩ := transportPresent_next hcall
    cases hresp
    exact h.of_ready hport rfl rfl rfl rfl rfl
  | readByte a =>
    obtain ⟨⟨v, u⟩, hcall, hresp⟩ := andThen_eq_next hexec
    obtain ⟨-, -, -, rfl⟩ := transportGet_next hcall
    cases hresp
    exact h.of_ready hport rfl rfl rfl rfl rfl
  | readBuffer a n =>
    obtain ⟨⟨v, u⟩, hcall, hresp⟩ := andThen_eq_next hexec
    obtain ⟨-, -, -, rfl⟩ := transportGetBuffer_next hcall
    cases hresp
    exact h.of_ready hport rfl rfl rfl rfl rfl
  | writeByte a v =>
    simp only [Machine.exec, execWriteByte] at hexec
    split at hexec <;> cases hexec
    next hrange => exact h.startWrite hport (by simpa [inRange] using hrange) fun _ => rfl
  | writeBuffer a bytes =>
    simp only [Machine.exec, execWriteBuffer] at hexec
    split at hexec
    · cases hexec
      exact h.of_ready hport rfl rfl rfl rfl rfl
    · next hne =>
      split at hexec <;> cases hexec
      next hrange =>
        exact h.startWrite hport (((inRange_iff _ _).mp hrange).resolve_left (by simpa using hne)) nofun
  | onTick => exact absurd rfl htick
  | sensorHandler => exact absurd rfl hsensor
  | rxHandler => exact absurd rfl hrx

theorem RestInv.host {t : State} (hmove : hostMove s = .next t) : RestInv t := by
  rcases hostMove_cases hmove with rfl | ⟨c, rest, i, left, -, hready, hdecode, hexec⟩
  · exact h
  · have htaken : RestInv (takeCommand rest left s) := h.of_ready hready rfl rfl rfl rfl rfl
    exact htaken.exec hready (decodeCommand_not_handler hdecode) hexec

/-- The handlers end before the step does (60 R211), and a tick keeps an idle engine idle. -/
theorem RestInv.entry {t : State} (hmove : entryMove s = .next t) : RestInv t := by
  rcases entryMove_cases hmove with rfl | ⟨-, -, htick⟩ | rfl
  · exact h
  · cases htick
    refine h.of_unchanged rfl (by simp) (by simp) (by simp) (by simp) fun hwait => ?_
    have hidle := h.port.wait_idle hwait
    simpa [tickEngine_waits (.inl hidle)] using hidle
  · exact h.of_unchanged rfl (by simp) (by simp) (by simp) (by simp) fun hwait => by
      simpa using h.port.wait_idle hwait

theorem RestInv.transfer {t : State} (hmove : transferMove s = .next t) : RestInv t := by
  unfold transferMove at hmove
  split at hmove
  · next hphase =>
    have hbusy : s.ser.phase ≠ .idle := by simp [hphase]
    have hwait := h.port.one_command hbusy
    unfold transferStep at hmove
    split at hmove
    · cases hmove
      exact ⟨h.no_service, serializerInv_of_idle rfl, ⟨by simp [hwait], fun _ => hwait, absurd hwait⟩,
        ⟨h.device.mem_wf, h.device.page_exists, nofun⟩⟩
    · obtain ⟨u, hsend, hadvance⟩ := andThen_eq_next hmove
      obtain ⟨ha, o, k, stored, rfl⟩ := nextTransaction_next hsend
      cases hadvance
      refine ⟨h.no_service, h.serializer.advance hbusy, ⟨?_, fun _ => hwait, absurd hwait⟩,
        ⟨storeFrom_wf h.device.mem_wf ha, ?_, fun _ => rfl⟩⟩
      · have hnot : s.port.cmdReady ≠ true := fun hready => hbusy (h.free_of_ready hready).1
        exact iff_of_false hnot (by simp [advance])
      · simp only [Config.cap] at ha
        simp only [observe_dev, countDraws_dev, startCycle_dev, Config.page]
        omega
  · cases hmove
    exact h

theorem RestInv.settleDone {t : State} (hmove : settleMove s = .next t) : RestInv t := by
  unfold settleMove at hmove
  split at hmove <;> cases hmove
  · next hsettle =>
    have hphase : s.ser.phase ≠ .idle := by simp [(settling_iff s).mp hsettle]
    have hwait := h.port.one_command hphase
    have hnot : s.port.cmdReady ≠ true := fun hready => hphase (h.free_of_ready hready).1
    exact ⟨h.no_service,
      ⟨fun _ => h.serializer.request hphase, fun _ => h.serializer.in_range hphase,
        fun _ => h.serializer.one_byte hphase⟩,
      ⟨iff_of_false hnot (by simp), fun _ => hwait, absurd hwait⟩,
      ⟨h.device.mem_wf, h.device.page_exists, nofun⟩⟩
  · exact h

theorem RestInv.deviceDone {t : State} (hmove : deviceMove s = .next t) : RestInv t := by
  unfold deviceMove at hmove
  split at hmove <;> cases hmove
  · exact h
  · next hsettle =>
    exact ⟨h.no_service, h.serializer, ⟨h.port.ready_iff, h.port.one_command, h.port.wait_idle⟩,
      ⟨h.device.mem_wf, h.device.page_exists, fun hphase => absurd ((settling_iff s).mpr hphase) hsettle⟩⟩

theorem RestInv.setPresent (b : Bool) : RestInv { s with dev := { s.dev with present := b } } :=
  ⟨h.no_service, h.serializer, ⟨h.port.ready_iff, h.port.one_command, h.port.wait_idle⟩,
    ⟨h.device.mem_wf, h.device.page_exists, h.device.settle_busy⟩⟩

/-- Phase B completes the only command in progress (40 R122). -/
theorem RestInv.applyImmediate : RestInv (applyImmediateStep s) := by
  unfold applyImmediateStep
  split
  · next w hwait =>
    split
    · have hphase : s.ser.phase = .idle := by
        by_contra hbusy
        simp [h.port.one_command hbusy] at hwait
      exact ⟨h.no_service, h.serializer, ⟨by simp [hphase], fun _ => rfl, absurd rfl⟩,
        ⟨h.device.mem_wf, h.device.page_exists, h.device.settle_busy⟩⟩
    · exact h
  · exact h

/-- A reset leaves no command in progress, and scrambles at most one page that exists (70 R231, R232). -/
theorem RestInv.reset : RestInv (resetStep s) := by
  refine ⟨by simp, serializerInv_of_idle (by simp), ⟨by simp, by simp, by simp⟩, ⟨?_, ?_, by simp⟩⟩
  · rw [resetStep_dev]
    split
    · have hpage : s.dev.page * Config.page < Config.cap := by
        have := h.device.page_exists
        simp only [Config.page, Config.cap]
        omega
      simp only [scramblePage_dev]
      exact storeFrom_wf h.device.mem_wf hpage
    · exact h.device.mem_wf
  · rw [resetStep_dev]
    split
    · rw [scramblePage_dev]
      exact h.device.page_exists
    · exact h.device.page_exists

theorem RestInv.runMove {m : Move} {t : State} (hmove : runMove m s = .next t) : RestInv t := by
  cases m with
  | host => exact h.host hmove
  | raise ev =>
    cases hmove
    exact h.of_unchanged h.no_service rfl rfl rfl Iff.rfl h.port.wait_idle
  | entry => exact h.entry hmove
  | transfer => exact h.transfer hmove
  | settleDone => exact h.settleDone hmove
  | deviceDone => exact h.deviceDone hmove
  | applyImmediate => cases hmove; exact h.applyImmediate
  | setPresent b => cases hmove; exact h.setPresent b
  | reset => cases hmove; exact h.reset

theorem RestInv.step {t : State} (hstep : step s = .next t) : RestInv t := by
  rcases step_cases hstep with ⟨-, rfl⟩ | ⟨m, moves, -, hmove⟩
  · exact h
  · have hpopped : RestInv { s with schedule := moves } :=
      h.of_unchanged h.no_service rfl rfl rfl Iff.rfl h.port.wait_idle
    exact hpopped.runMove hmove

end Rest

/-- Settles O50: the engine by what a step can make of it, `out = cur` by the duty calls, the rest move by move. -/
theorem stepKeepsInvariants : Obligations.StepKeepsInvariants := by
  intro s t hinv hstep
  have hout : t.out = t.engine.cur := (dutiesFollow_step hstep).agree hinv.out_cur
  obtain ⟨hservice, hserializer, hport, hdevice⟩ := hinv.rest.step hstep
  exact ⟨(engineStep hstep).keepsInv hinv, hout, hservice, hserializer, hport, hdevice⟩

end Sys2Proof.Machine
end

section
/-! SUPPORT AND PROOFS for the family 40_ramp_engine.md, third part: what the engine's registers hold in `Idle` can
affect nothing observable (40 R138). A piece of the machine that commutes with every replacement of the engine neither
reads nor writes it; the pieces that do read or write it are met with the engine idle. -/

namespace Sys2Proof.Machine

/-- The state with another engine. -/
def withEngine (e : Engine) (s : State) : State := { s with engine := e }

theorem IdleAlike.refl (s : State) : IdleAlike s s := ⟨rfl, rfl, rfl, fun _ => rfl⟩

/-- Two idle engines with the same current duties. -/
theorem idleAlike_of_idle {s : State} {e : Engine} (hidle : s.engine.tag = .idle) (htag : e.tag = .idle)
    (hcur : e.cur = s.engine.cur) : IdleAlike s (withEngine e s) :=
  ⟨rfl, htag.trans hidle.symm, hcur, absurd hidle⟩

/-- States that are alike are equal, or both idle. -/
theorem IdleAlike.eq_or_idle {s s' : State} (h : IdleAlike s s') :
    s' = s ∨ ∃ e, s' = withEngine e s ∧ s.engine.tag = .idle ∧ e.tag = .idle ∧ e.cur = s.engine.cur := by
  by_cases hidle : s.engine.tag = .idle
  · exact .inr ⟨s'.engine, h.outside, hidle, h.tag.trans hidle, h.cur⟩
  · left
    rw [h.outside, h.live hidle]

/-- A piece that neither reads nor writes the engine keeps states alike. -/
theorem IdleAlike.map {f : State → State} (hf : ∀ e, Function.Commute f (withEngine e)) {s s' : State}
    (h : IdleAlike s s') : IdleAlike (f s) (f s') := by
  have hself : f s = withEngine s.engine (f s) := hf s.engine s
  have hkeep : (f s).engine = s.engine := by
    rw [hself]
    rfl
  rcases h.eq_or_idle with rfl | ⟨e, rfl, hidle, htag, hcur⟩
  · exact .refl _
  · rw [hf e s]
    exact idleAlike_of_idle (by rw [hkeep, hidle]) htag (by rw [hkeep, hcur])

theorem outcomesAlike_refl (o : Host.Outcome State Fault Refusal) : OutcomesAlike IdleAlike o o := by
  cases o with
  | next t => exact .refl t
  | fault f => rfl
  | refused r => rfl

/-- A test that both sides answer alike keeps two outcomes alike. -/
theorem OutcomesAlike.ite {R : State → State → Prop} {p : Prop} [Decidable p]
    {o₁ o₁' o₂ o₂' : Host.Outcome State Fault Refusal} (h₁ : OutcomesAlike R o₁ o₁') (h₂ : OutcomesAlike R o₂ o₂') :
    OutcomesAlike R (if p then o₁ else o₂) (if p then o₁' else o₂') := by
  split
  · exact h₁
  · exact h₂

/-! What no piece outside the ramp engine sees of a replaced engine. -/

section Replaced

variable (e : Engine) (s : State)

@[simp] theorem withEngine_hostQueue : (withEngine e s).hostQueue = s.hostQueue := rfl
@[simp] theorem withEngine_port : (withEngine e s).port = s.port := rfl
@[simp] theorem withEngine_arb : (withEngine e s).arb = s.arb := rfl
@[simp] theorem pending_withEngine : pending (withEngine e s) = pending s := rfl
@[simp] theorem portInput_withEngine (c : HostCommand) : portInput c (withEngine e s) = portInput c s := rfl

end Replaced

theorem enterHandler_withEngine (e : Engine) : Function.Commute enterHandler (withEngine e) :=
  semiconj_ite (fun _ => Iff.rfl) (fun _ => rfl)
    (semiconj_ite (fun _ => Iff.rfl) (fun _ => rfl)
      (semiconj_ite (fun _ => Iff.rfl) (fun _ => rfl) (fun _ => rfl)))

/-- A reset overwrites the whole engine (70 R231). -/
theorem resetStep_withEngine (e : Engine) (s : State) : resetStep (withEngine e s) = resetStep s := by
  have hregisters : ∀ u : State, resetRegisters (withEngine e u) = resetRegisters u := fun _ => rfl
  have hscramble : scramblePage (withEngine e s) = withEngine e (scramblePage s) := by
    simp only [scramblePage, withEngine]
  have hbusy : (withEngine e s).dev.busy = s.dev.busy := rfl
  simp only [resetStep, hbusy, hscramble]
  split <;> exact hregisters _

section Alike

variable {s s' : State} (h : IdleAlike s s')
include h

/-- The serializer's side sees nothing of the engine (10 R46). -/
theorem serializer_keepsAlike {f : State → Host.Outcome State Fault Refusal}
    (hf : ∀ e o b, Function.Semiconj f (replaceRamp e o b) (mapNext (replaceRamp e o b))) :
    OutcomesAlike IdleAlike (f s) (f s') := by
  have hs' : replaceRamp s'.engine s.out s.arb s = s' := h.outside.symm
  have hreplaced : f s' = mapNext (replaceRamp s'.engine s.out s.arb) (f s) := by
    rw [← hf s'.engine s.out s.arb s, hs']
  rw [hreplaced]
  cases hfs : f s with
  | next t =>
    obtain ⟨hengine, hout, harb⟩ := serializer_keepsRamp hf hfs
    have ht : replaceRamp s'.engine s.out s.arb t = withEngine s'.engine t := by
      rw [← hout, ← harb]
      rfl
    rw [mapNext_next, ht]
    exact ⟨rfl, by rw [hengine]; exact h.tag, by rw [hengine]; exact h.cur, by rw [hengine]; exact h.live⟩
  | fault r => rfl
  | refused r => rfl

theorem setImmediate_keepsAlike (d1 d2 d3 d4 : Byte) :
    OutcomesAlike IdleAlike (exec (.setImmediate d1 d2 d3 d4) s) (exec (.setImmediate d1 d2 d3 d4) s') := by
  obtain ⟨e, rfl⟩ : ∃ e, s' = withEngine e s := ⟨_, h.outside⟩
  cases hmode : s.setImmMode with
  | atomic =>
    rw [exec_setImmediate_atomic hmode, exec_setImmediate_atomic (s := withEngine e s) hmode]
    exact idleAlike_of_idle (e := { e with cur := ⟨d1, d2, d3, d4⟩, tag := .idle, cnt := 0 }) rfl rfl rfl
  | twoPhase =>
    rw [exec_setImmediate_twoPhase hmode, exec_setImmediate_twoPhase (s := withEngine e s) hmode]
    exact idleAlike_of_idle (e := { e with tag := .idle, cnt := 0 }) rfl rfl h.cur

/-- An accepted `BeginRamp` overwrites every register that was dead (40 R123). -/
theorem beginRamp_keepsAlike (t1 t2 t3 t4 : Byte) (f hold : BitVec 16) :
    OutcomesAlike IdleAlike (exec (.beginRamp t1 t2 t3 t4 f hold) s) (exec (.beginRamp t1 t2 t3 t4 f hold) s') := by
  rcases h.eq_or_idle with rfl | ⟨e, rfl, hidle, htag, hcur⟩
  · exact outcomesAlike_refl _
  · have hsame : acceptRamp ⟨t1, t2, t3, t4⟩ f hold e = acceptRamp ⟨t1, t2, t3, t4⟩ f hold s.engine := by
      simp only [acceptRamp, hcur]
    rw [exec_beginRamp_idle hidle, exec_beginRamp_idle (s := withEngine e s) htag]
    change IdleAlike _ (respond 0 [] { s with engine := acceptRamp _ _ _ e })
    rw [hsame]
    exact .refl _

theorem isBusy_keepsAlike : OutcomesAlike IdleAlike (exec .isBusy s) (exec .isBusy s') := by
  have hbusy : busy s' = busy s := by simp only [busy, h.tag]
  change IdleAlike (respond (boolWord (busy s)) [] s) (respond (boolWord (busy s')) [] s')
  rw [hbusy]
  exact h.map fun _ _ => rfl

/-- A tick in `Idle` only counts down a dead register (40 R129). -/
theorem onTick_keepsAlike : OutcomesAlike IdleAlike (exec .onTick s) (exec .onTick s') := by
  have htick : IdleAlike (tickBody s) (tickBody s') := by
    rcases h.eq_or_idle with rfl | ⟨e, rfl, hidle, htag, hcur⟩
    · exact .refl _
    · rw [tickBody_waits (.inl hidle), tickBody_waits (s := withEngine e s) (.inl htag)]
      exact idleAlike_of_idle (e := { e with cnt := countDown e.cnt }) hidle htag hcur
  exact (htick.map (f := noteTick) fun _ _ => rfl).map (f := leaveHandler) fun _ _ => rfl

theorem exec_keepsAlike (i : Instr) : OutcomesAlike IdleAlike (exec i s) (exec i s') := by
  have hserializer : isSerializerOp i = true → OutcomesAlike IdleAlike (exec i s) (exec i s') := fun hi =>
    serializer_keepsAlike h fun e o b => exec_serializerOp_replaceRamp e o b hi
  cases i with
  | setImmediate d1 d2 d3 d4 => exact setImmediate_keepsAlike h d1 d2 d3 d4
  | beginRamp t1 t2 t3 t4 f hold => exact beginRamp_keepsAlike h t1 t2 t3 t4 f hold
  | isBusy => exact isBusy_keepsAlike h
  | onTick => exact onTick_keepsAlike h
  | sensorHandler | rxHandler => exact h.map (f := leaveHandler) fun _ _ => rfl
  | probe | capacity | readByte | readBuffer | writeByte | writeBuffer => exact hserializer rfl

theorem hostMove_keepsAlike : OutcomesAlike IdleAlike (hostMove s) (hostMove s') := by
  obtain ⟨e, rfl⟩ : ∃ e, s' = withEngine e s := ⟨_, h.outside⟩
  simp only [hostMove, withEngine_hostQueue, withEngine_port, portInput_withEngine]
  split
  · exact h
  · next c rest _ =>
    refine .ite ?_ h
    split
    · next i left _ => exact exec_keepsAlike (h.map (f := takeCommand rest left) fun _ _ => rfl) i
    · rfl

theorem entryMove_keepsAlike : OutcomesAlike IdleAlike (entryMove s) (entryMove s') := by
  obtain ⟨e, rfl⟩ : ∃ e, s' = withEngine e s := ⟨_, h.outside⟩
  simp only [entryMove, withEngine_arb, pending_withEngine]
  refine .ite h ?_
  split
  · exact exec_keepsAlike (h.map enterHandler_withEngine) _
  · exact h

theorem applyImmediate_keepsAlike : IdleAlike (applyImmediateStep s) (applyImmediateStep s') := by
  rcases h.eq_or_idle with rfl | ⟨e, rfl, hidle, htag, hcur⟩
  · exact .refl _
  · simp only [applyImmediateStep, withEngine_port]
    split
    · next w _ =>
      split
      · exact idleAlike_of_idle (e := { e with cur := w.duties }) hidle htag rfl
      · exact h
    · exact h

theorem resetStep_keepsAlike : IdleAlike (resetStep s) (resetStep s') := by
  have hsame : resetStep s' = resetStep s := h.outside ▸ resetStep_withEngine s'.engine s
  rw [hsame]
  exact .refl _

theorem runMove_keepsAlike (m : Move) : OutcomesAlike IdleAlike (runMove m s) (runMove m s') := by
  have hserializer : isSerializerMove m = true → OutcomesAlike IdleAlike (runMove m s) (runMove m s') :=
    fun hm => serializer_keepsAlike h fun e o b => runMove_serializerMove_replaceRamp e o b hm
  cases m with
  | host => exact hostMove_keepsAlike h
  | raise ev => exact h.map (f := raiseEvents ev) fun _ _ => rfl
  | entry => exact entryMove_keepsAlike h
  | applyImmediate => exact applyImmediate_keepsAlike h
  | reset => exact resetStep_keepsAlike h
  | transfer | settleDone | deviceDone | setPresent => exact hserializer rfl

end Alike

/-- Settles O25: every move keeps states alike, and states that are alike have the same next move. -/
theorem idleRegistersUnobservable : Obligations.IdleRegistersUnobservable := by
  intro s s' h
  have hsame : s'.schedule = s.schedule := by
    rw [h.outside]
  cases hsched : s.schedule with
  | nil =>
    rw [step_nil hsched, step_nil (hsame.trans hsched)]
    exact h
  | cons m moves =>
    rw [step_cons hsched, step_cons (hsame.trans hsched)]
    have hpopped : IdleAlike { s with schedule := moves } { s' with schedule := moves } :=
      h.map (f := fun u => { u with schedule := moves }) fun _ _ => rfl
    exact runMove_keepsAlike hpopped m

end Sys2Proof.Machine
end

section
/-! SUPPORT AND PROOFS for the family 40_ramp_engine.md, fourth part: runs of ticks. A ramp from its `BeginRamp` to
`Idle` (40 R134, R135), the two forms of `SetImmediate` (40 R122), its race with a tick (70 R242). -/

namespace Sys2Proof.Machine

/-- What every tick carries on holds of the engine after any number of ticks, and the ticks complete. -/
theorem execTicks_engine {P : Nat → Engine → Prop} (htick : ∀ n e, P n e → P (n + 1) (tickEngine e)) (n : Nat)
    {m : Nat} {s : State} (h : P m s.engine) : ∃ u, execTicks n s = .next u ∧ P (m + n) u.engine := by
  induction n generalizing m s with
  | zero => exact ⟨s, rfl, h⟩
  | succ n ih =>
    have hnext : P (m + 1) (leaveHandler (noteTick (tickBody s))).engine := by
      simpa using htick m s.engine h
    obtain ⟨u, hrun, hu⟩ := ih hnext
    exact ⟨u, hrun, by rwa [show m + (n + 1) = m + 1 + n by omega]⟩

/-! ### One channel on its way -/

/-- Where a channel stands after `k` moves from `start` toward `goal` (40 R134). -/
def dutyAfter (start goal k : Nat) : Nat := if start ≤ goal then min (start + k) goal else max (start - k) goal

theorem dutyAfter_eq_goal_iff (start goal k : Nat) :
    dutyAfter start goal k = goal ↔ max (start - goal) (goal - start) ≤ k := by
  unfold dutyAfter
  split <;> omega

/-- One move is the next one. -/
theorem moveToward_dutyAfter {c t : Byte} {start k : Nat} (h : c.toNat = dutyAfter start t.toNat k) :
    (moveToward c t).toNat = dutyAfter start t.toNat (k + 1) := by
  rcases Nat.lt_trichotomy c.toNat t.toNat with hlt | heq | hgt
  · rw [moveToward_up hlt]
    unfold dutyAfter at *
    split_ifs at * <;> omega
  · have hreached := (dutyAfter_eq_goal_iff start t.toNat k).mp (h.symm.trans heq)
    rw [BitVec.eq_of_toNat_eq heq, moveToward_self]
    exact ((dutyAfter_eq_goal_iff _ _ _).mpr (by omega)).symm
  · rw [moveToward_down hgt]
    unfold dutyAfter at *
    split_ifs at * <;> omega

theorem maxDistance_le_iff (c t : Duties) (k : Nat) :
    maxDistance c t ≤ k ↔ ∀ ch, distance (duty c ch) (duty t ch) ≤ k := by
  simp only [maxDistance, max_le_iff]
  constructor
  · rintro ⟨⟨h1, h2⟩, h3, h4⟩ ch
    cases ch
    case ch1 => exact h1
    case ch2 => exact h2
    case ch3 => exact h3
    case ch4 => exact h4
  · exact fun h => ⟨⟨h .ch1, h .ch2⟩, h .ch3, h .ch4⟩

/-- All four channels stand where `k` moves from `start` bring them. -/
def MovedBy (start goal : Duties) (k : Nat) (cur : Duties) : Prop :=
  ∀ ch, (duty cur ch).toNat = dutyAfter (duty start ch).toNat (duty goal ch).toNat k

theorem movedBy_zero (start goal : Duties) : MovedBy start goal 0 start := by
  intro ch
  unfold dutyAfter
  split <;> omega

theorem MovedBy.move {start goal cur : Duties} {k : Nat} (h : MovedBy start goal k cur) :
    MovedBy start goal (k + 1) (moveAll cur goal) := by
  intro ch
  rw [duty_moveAll]
  exact moveToward_dutyAfter (h ch)

/-- The targets are reached after as many moves as the largest distance (40 R134). -/
theorem MovedBy.eq_goal_iff {start goal cur : Duties} {k : Nat} (h : MovedBy start goal k cur) :
    cur = goal ↔ maxDistance start goal ≤ k := by
  rw [maxDistance_le_iff]
  constructor
  · rintro rfl ch
    exact (dutyAfter_eq_goal_iff _ _ _).mp (h ch).symm
  · intro hdistance
    refine duties_ext fun ch => BitVec.eq_of_toNat_eq ?_
    rw [h ch]
    exact (dutyAfter_eq_goal_iff _ _ _).mpr (hdistance ch)

theorem movedBy_goal {start goal : Duties} {k : Nat} (h : maxDistance start goal ≤ k) :
    MovedBy start goal k goal := fun ch =>
  ((dutyAfter_eq_goal_iff _ _ _).mpr ((maxDistance_le_iff _ _ _).mp h ch)).symm

/-! ### The course of a ramp

With `P = max(F, 1)` the fade steps are on the ticks `F + 1`, `F + 1 + P`, `F + 1 + 2 P`, …, so after `n` ticks and `k`
fade steps the count is what is missing of `n` at `F + k P`. -/

/-- How many fade steps the first `n` ticks hold (40 R134). -/
def fadeSteps (fade n : Nat) : Nat := if n ≤ fade then 0 else (n - fade - 1) / max fade 1 + 1

/-- The tick of the last fade step, `c` of 40 R134. -/
def holdStart (start goal : Duties) (fade : Nat) : Nat :=
  fade + 1 + (max (maxDistance start goal) 1 - 1) * max fade 1

/-- The count tells the fade steps made. -/
theorem fadeSteps_eq {fade n k cnt : Nat} (hcount : n + cnt = fade + k * max fade 1)
    (hbelow : k ≠ 0 → cnt < max fade 1) : fadeSteps fade n = k := by
  cases k with
  | zero => exact if_pos (by omega)
  | succ k =>
    have hcnt := hbelow (Nat.succ_ne_zero k)
    rw [Nat.succ_mul] at hcount
    rw [fadeSteps, if_neg (by omega)]
    have hdiv : (n - fade - 1) / max fade 1 = k := by
      refine Nat.div_eq_of_lt_le ?_ ?_
      · omega
      · rw [Nat.succ_mul]
        omega
    rw [hdiv]

/-- From the last fade step on, enough of them are made. -/
theorem le_fadeSteps {start goal : Duties} {fade n : Nat} (h : holdStart start goal fade ≤ n) :
    maxDistance start goal ≤ fadeSteps fade n := by
  unfold holdStart at h
  rw [fadeSteps, if_neg (by omega)]
  have hdiv : max (maxDistance start goal) 1 - 1 ≤ (n - fade - 1) / max fade 1 := by
    rw [Nat.le_div_iff_mul_le (by omega)]
    omega
  omega

/-- Where a ramp from `start` to `goal` stands after `n` ticks. -/
inductive OnCourse (start goal : Duties) (f h : BitVec 16) (n : Nat) (e : Engine) : Prop
  | fading (k : Nat) (htag : e.tag = .fading) (htgt : e.tgt = goal) (hfade : e.fade = f) (hhold : e.hold = scaleHold h)
      (hcount : n + e.cnt.toNat = f.toNat + k * max f.toNat 1) (hbelow : k ≠ 0 → e.cnt.toNat < max f.toNat 1)
      (hshort : k < max (maxDistance start goal) 1) (hmoved : MovedBy start goal k e.cur)
  | holding (htag : e.tag = .holding) (hcur : e.cur = goal) (hstart : holdStart start goal f.toNat ≤ n)
      (hcount : n + e.cnt.toNat + 1 = holdStart start goal f.toNat + max (10 * h.toNat) 1)
  | idle (htag : e.tag = .idle) (hcur : e.cur = goal)
      (hend : holdStart start goal f.toNat + max (10 * h.toNat) 1 ≤ n)

section Course

variable {start goal : Duties} {f h : BitVec 16} {n : Nat} {e : Engine}

/-- An accepted `BeginRamp` sets out (40 R123). -/
theorem onCourse_acceptRamp (goal : Duties) (f h : BitVec 16) (e : Engine) :
    OnCourse e.cur goal f h 0 (acceptRamp goal f h e) := by
  refine .fading 0 rfl rfl rfl rfl ?_ (absurd rfl) (by omega) (movedBy_zero _ _)
  simp only [acceptRamp, widenFade_toNat]
  omega

/-- A fade step either brings all channels to their targets, which begins the hold, or reloads the fade count. -/
theorem onCourse_fadeStep {k : Nat} (htag : e.tag = .fading) (hcnt : e.cnt = 0) (htgt : e.tgt = goal)
    (hfade : e.fade = f) (hhold : e.hold = scaleHold h) (hcount : n = f.toNat + k * max f.toNat 1)
    (hshort : k < max (maxDistance start goal) 1) (hmoved : MovedBy start goal k e.cur) :
    OnCourse start goal f h (n + 1) (tickEngine e) := by
  subst htgt
  have hreached := hmoved.move.eq_goal_iff
  by_cases hdone : moveAll e.cur e.tgt = e.tgt
  · have hsteps : max (maxDistance start e.tgt) 1 - 1 = k := by
      have := hreached.mp hdone
      omega
    have hstart : holdStart start e.tgt f.toNat = n + 1 := by
      rw [holdStart, hsteps]
      omega
    rw [tickEngine_converged htag hcnt hdone]
    refine .holding rfl rfl hstart.le ?_
    rw [hstart, countDown_toNat, hhold, scaleHold_toNat]
    omega
  · have hmore : ¬maxDistance start e.tgt ≤ k + 1 := mt hreached.mpr hdone
    have hcnt' : (countDown (widenFade e.fade)).toNat = f.toNat - 1 := by
      rw [countDown_toNat, widenFade_toNat, hfade]
    rw [tickEngine_fades htag hcnt hdone]
    refine .fading (k + 1) htag rfl hfade hhold ?_ (fun _ => ?_) (by omega) hmoved.move
    · rw [hcnt', Nat.succ_mul]
      omega
    · rw [hcnt']
      omega

/-- Every tick carries the ramp on. -/
theorem OnCourse.tick (hcourse : OnCourse start goal f h n e) : OnCourse start goal f h (n + 1) (tickEngine e) := by
  have hdown := countDown_toNat e.cnt
  cases hcourse with
  | fading k htag htgt hfade hhold hcount hbelow hshort hmoved =>
    by_cases hcnt : e.cnt = 0
    · refine onCourse_fadeStep htag hcnt htgt hfade hhold ?_ hshort hmoved
      simpa [hcnt] using hcount
    · have hpos := BitVec.toNat_pos_of_ne_zero hcnt
      rw [tickEngine_waits (.inr hcnt)]
      refine .fading k htag htgt hfade hhold ?_ (fun hk => ?_) hshort hmoved
      · rw [hdown]
        omega
      · have := hbelow hk
        rw [hdown]
        omega
  | holding htag hcur hstart hcount =>
    by_cases hcnt : e.cnt = 0
    · rw [tickEngine_endsHold htag hcnt]
      refine .idle rfl hcur ?_
      have hzero : e.cnt.toNat = 0 := by simp [hcnt]
      omega
    · have hpos := BitVec.toNat_pos_of_ne_zero hcnt
      rw [tickEngine_waits (.inr hcnt)]
      refine .holding htag hcur (by omega) ?_
      rw [hdown]
      omega
  | idle htag hcur hend =>
    rw [tickEngine_waits (.inl htag)]
    exact .idle htag hcur (by omega)

section Read

variable (hcourse : OnCourse start goal f h n e)
include hcourse

/-- The fade steps fall short of the last one before tick `c`, so a ramp that fades has not come there yet. -/
theorem OnCourse.before_hold_of_fading (htag : e.tag = .fading) : n < holdStart start goal f.toNat := by
  cases hcourse with
  | fading k _ _ _ _ hcount _ hshort _ =>
    have hle : k * max f.toNat 1 ≤ (max (maxDistance start goal) 1 - 1) * max f.toNat 1 :=
      Nat.mul_le_mul_right _ (by omega)
    unfold holdStart
    omega
  | holding htag' => simp [htag] at htag'
  | idle htag' => simp [htag] at htag'

theorem OnCourse.fading_of_lt (hn : n < holdStart start goal f.toNat) : e.tag = .fading := by
  cases hcourse with
  | fading _ htag => exact htag
  | holding | idle => omega

theorem OnCourse.holding_of_le (hstart : holdStart start goal f.toNat ≤ n)
    (hn : n < holdStart start goal f.toNat + max (10 * h.toNat) 1) :
    e.tag = .holding ∧ e.cnt.toNat = max (10 * h.toNat) 1 - 1 - (n - holdStart start goal f.toNat) := by
  have hbefore := hcourse.before_hold_of_fading
  cases hcourse with
  | fading _ htag =>
    have := hbefore htag
    omega
  | holding htag => exact ⟨htag, by omega⟩
  | idle => omega

theorem OnCourse.idle_of_le (hn : holdStart start goal f.toNat + max (10 * h.toNat) 1 ≤ n) : e.tag = .idle := by
  have hbefore := hcourse.before_hold_of_fading
  cases hcourse with
  | fading _ htag =>
    have := hbefore htag
    omega
  | holding => omega
  | idle htag => exact htag

/-- Every duty on the way, and at the end (40 R134, R136). -/
theorem OnCourse.movedBy : MovedBy start goal (fadeSteps f.toNat n) e.cur := by
  cases hcourse with
  | fading k _ _ _ _ hcount hbelow _ hmoved => rwa [fadeSteps_eq hcount hbelow]
  | holding _ hcur hstart =>
    rw [hcur]
    exact movedBy_goal (le_fadeSteps hstart)
  | idle _ hcur hend =>
    rw [hcur]
    exact movedBy_goal (le_fadeSteps (by omega))

end Read

end Course

/-- Settles O22: the ramp is on its course after `BeginRamp`, and every tick carries it on. -/
theorem rampRunsItsCourse : Obligations.RampRunsItsCourse := by
  intro t1 t2 t3 t4 f h s hidle goal p hold c
  refine ⟨_, exec_beginRamp_idle hidle t1 t2 t3 t4 f h, fun n => ?_⟩
  have hset := onCourse_acceptRamp goal f h s.engine
  obtain ⟨u, hrun, hcourse⟩ := execTicks_engine (P := OnCourse s.engine.cur goal f h) (fun _ _ => OnCourse.tick) n
    (s := respond 0 [] { s with engine := acceptRamp goal f h s.engine }) hset
  rw [Nat.zero_add] at hcourse
  exact ⟨u, hrun, hcourse.fading_of_lt, hcourse.holding_of_le, hcourse.idle_of_le, hcourse.movedBy⟩

/-! ### The two forms of SetImmediate -/

/-- A waiting `SetImmediate` whose tick has come (40 R122). -/
def noteWait (w : ImmWait) (s : State) : State :=
  { s with port := { s.port with immWait := some { w with ticked := true } } }

/-- With an idle engine at rest a tick does nothing but tell the waiting `SetImmediate` (40 R122, R129). -/
theorem exec_onTick_resting {s : State} {w : ImmWait} (htag : s.engine.tag = .idle) (hcnt : s.engine.cnt = 0)
    (hservice : s.arb.inService = false) (hwait : s.port.immWait = some w) :
    exec .onTick s = .next (noteWait w s) := by
  have hengine : { s.engine with cnt := 0 } = s.engine := by rw [← hcnt]
  have harb : { s.arb with inService := false } = s.arb := by rw [← hservice]
  rw [onTickWaits s (.inl htag), if_pos hcnt, hengine, harb, hwait]
  rfl

/-- Told once, it is told for good: further ticks change nothing. -/
theorem execTicks_resting {s : State} {w : ImmWait} (htag : s.engine.tag = .idle) (hcnt : s.engine.cnt = 0)
    (hservice : s.arb.inService = false) (hwait : s.port.immWait = some w) (n : Nat) :
    execTicks (n + 1) s = .next (noteWait w s) := by
  have htold : ∀ n, execTicks n (noteWait w s) = .next (noteWait w s) := by
    intro n
    induction n with
    | zero => rfl
    | succ n ih =>
      have hagain : exec .onTick (noteWait w s) = .next (noteWait w s) :=
        exec_onTick_resting (s := noteWait w s) (w := { w with ticked := true }) htag hcnt hservice rfl
      rw [execTicks, hagain, andThen_next, ih]
  rw [execTicks, exec_onTick_resting htag hcnt hservice hwait, andThen_next, htold]

/-- Phase B, once the tick has come: the duties, then the completion (40 R122). -/
theorem applyImmediateStep_noteWait (w : ImmWait) (s : State) :
    applyImmediateStep (noteWait w s) =
      { completeCommand (applyDuties w.duties s) with
        port := { s.port with cmdReady := true, rsp := 0, rdata := [], immWait := none } } := rfl

/-- Settles O12: phase A rests the engine, ticks only tell the wait, and phase B completes with what the atomic form
does at once, to a port that was ready with nothing waiting. -/
theorem setImmediateFormsAgree : Obligations.SetImmediateFormsAgree := by
  intro d1 d2 d3 d4 s n hmode hready hwait hservice
  have hticks := execTicks_resting (s := phaseA ⟨d1, d2, d3, d4⟩ s) rfl rfl hservice rfl n
  refine ⟨phaseA ⟨d1, d2, d3, d4⟩ s, _, _, exec_setImmediate_twoPhase hmode d1 d2 d3 d4, rfl, rfl, rfl, rfl, rfl,
    hticks, rfl, rfl, rfl, rfl, ?_⟩
  rw [exec_setImmediate_atomic rfl, applyImmediateStep_noteWait]
  have hport : { s.port with cmdReady := true, rsp := 0, rdata := [], immWait := none } =
      { s.port with rsp := 0, rdata := [] } := by
    rw [← hready, ← hwait]
  simp only [phaseA]
  rw [hport]
  rfl

/-! ### The race with a tick -/

/-- A `SetImmediate` overwrites all that a tick may have written to the engine. -/
theorem cancelled_tickEngine (d : Duties) (e : Engine) :
    { tickEngine e with cur := d, tag := .idle, cnt := 0 } = { e with cur := d, tag := .idle, cnt := 0 } := by
  simp

/-- Settles O26: after the tick `SetImmediate` overwrites what it wrote, and before the tick it leaves an idle engine at
rest, which a tick does not touch. -/
theorem setImmediateWinsTheRace : Obligations.SetImmediateWinsTheRace := by
  intro d1 d2 d3 d4 s hmode
  have hmode' : (leaveHandler (noteTick (tickBody s))).setImmMode = .atomic := by simpa using hmode
  refine ⟨_, _, _, _, exec_onTick s, exec_setImmediate_atomic hmode' d1 d2 d3 d4,
    exec_setImmediate_atomic hmode d1 d2 d3 d4, exec_onTick _, ?_, rfl, ?_, rfl, rfl, ?_⟩
  · simp only [respond_engine, applyDuties_engine, cancelRamp_engine, leaveHandler_engine, noteTick_engine,
      tickBody_engine]
    rw [cancelled_tickEngine, tickEngine_rests rfl rfl]
  · rw [tickBody_waits (.inl rfl)]
    rfl
  · rw [busy_eq_false_iff, tickBody_waits (.inl rfl)]
    rfl

end Sys2Proof.Machine
end

section
/-! SUPPORT AND PROOFS for the family 41_eeprom_serializer.md, first part: the closed form of a request's transactions
(41 R160). Its first transaction is the sequencer's next chunk and the rest is the closed form of what is left; every
property of the list is an induction on that. -/

namespace Sys2Proof.Machine

/-! ### The closed form, one transaction at a time -/

theorem chunk_eq (a n : Nat) : chunk a n = min (64 - a % 64) n := rfl

@[simp] theorem closedForm_nil (a : Nat) : closedForm a [] = [] := by
  simp [closedForm]

/-- The transactions of a request that starts at a page boundary: full pages, then the remainder. -/
def pagesFrom (a : Nat) (bytes : List Byte) : List (Nat × List Byte) :=
  (List.range (bytes.length / 64)).map (fun q => (a + 64 * q, (bytes.drop (64 * q)).take 64)) ++
    if bytes.length % 64 = 0 then []
    else [(a + 64 * (bytes.length / 64), bytes.drop (64 * (bytes.length / 64)))]

/-- The three parts of the closed form: the bytes up to the page boundary, then the pages. -/
theorem closedForm_eq {a k : Nat} {bytes : List Byte}
    (hk : (if a % 64 = 0 then 0 else min (64 - a % 64) bytes.length) = k) :
    closedForm a bytes = (if k = 0 then [] else [(a, bytes.take k)]) ++ pagesFrom (a + k) (bytes.drop k) := by
  subst hk
  simp only [pagesFrom, List.length_drop, List.drop_drop, ← List.append_assoc]
  rfl

theorem closedForm_of_aligned {a : Nat} (ha : a % 64 = 0) (bytes : List Byte) :
    closedForm a bytes = pagesFrom a bytes :=
  closedForm_eq (if_pos ha)

theorem closedForm_of_unaligned {a : Nat} {bytes : List Byte} (hne : bytes ≠ []) (ha : a % 64 ≠ 0) :
    closedForm a bytes =
      (a, bytes.take (chunk a bytes.length)) ::
        pagesFrom (a + chunk a bytes.length) (bytes.drop (chunk a bytes.length)) := by
  have hk : chunk a bytes.length ≠ 0 := (chunk_pos (List.length_pos_iff.mpr hne)).ne'
  rw [closedForm_eq (k := chunk a bytes.length) (if_neg ha), if_neg hk, List.singleton_append]

/-- At a page boundary the first transaction is a full page, or all the bytes if they are fewer. -/
theorem pagesFrom_cons {a : Nat} {bytes : List Byte} (hne : bytes ≠ []) (ha : a % 64 = 0) :
    pagesFrom a bytes =
      (a, bytes.take (chunk a bytes.length)) ::
        pagesFrom (a + chunk a bytes.length) (bytes.drop (chunk a bytes.length)) := by
  have hchunk : chunk a bytes.length = min 64 bytes.length := by rw [chunk_eq, ha]
  rw [hchunk]
  by_cases hpage : bytes.length < 64
  · have hfull : bytes.length / 64 = 0 := Nat.div_eq_of_lt hpage
    have hr : bytes.length % 64 = bytes.length := Nat.mod_eq_of_lt hpage
    have hk : min 64 bytes.length = bytes.length := by omega
    simp [pagesFrom, hk, hfull, hr, hne]
  · have hfull : bytes.length / 64 = (bytes.length - 64) / 64 + 1 := by omega
    have hr : bytes.length % 64 = (bytes.length - 64) % 64 := by omega
    have hk : min 64 bytes.length = 64 := by omega
    have hstart : ∀ q, a + 64 * (q + 1) = a + 64 + 64 * q := fun q => by omega
    have hoffset : ∀ q, 64 * (q + 1) = 64 + 64 * q := fun q => by omega
    simp only [pagesFrom, hk, List.length_drop, List.drop_drop, hfull, hr, List.range_succ_eq_map, List.map_cons,
      List.map_map, Function.comp_def, Nat.succ_eq_add_one, hstart]
    simp only [hoffset, List.cons_append]
    rfl

/-- What the first chunk leaves is either nothing or starts at a page boundary. -/
theorem closedForm_after_chunk (a : Nat) (bytes : List Byte) :
    closedForm (a + chunk a bytes.length) (bytes.drop (chunk a bytes.length)) =
      pagesFrom (a + chunk a bytes.length) (bytes.drop (chunk a bytes.length)) := by
  by_cases hrest : bytes.drop (chunk a bytes.length) = []
  · rw [hrest, closedForm_nil]
    rfl
  · have hleft : ¬bytes.length ≤ chunk a bytes.length := mt List.drop_eq_nil_iff.mpr hrest
    refine closedForm_of_aligned ?_ _
    rw [chunk_eq] at hleft ⊢
    omega

/-- The first transaction is the sequencer's next chunk; the others are those of what is left (41 R159, R160). -/
theorem closedForm_cons {bytes : List Byte} (hne : bytes ≠ []) (a : Nat) :
    closedForm a bytes =
      (a, bytes.take (chunk a bytes.length)) ::
        closedForm (a + chunk a bytes.length) (bytes.drop (chunk a bytes.length)) := by
  rw [closedForm_after_chunk]
  by_cases ha : a % 64 = 0
  · rw [closedForm_of_aligned ha, pagesFrom_cons hne ha]
  · exact closedForm_of_unaligned hne ha

/-- Induction along the transactions of a request: what holds of no byte, and of a request whenever it holds of what
the first chunk leaves, holds of every request. -/
theorem chunk_induction {P : Nat → List Byte → Prop} (nil : ∀ a, P a [])
    (cons : ∀ a bytes, bytes ≠ [] →
      P (a + chunk a bytes.length) (bytes.drop (chunk a bytes.length)) → P a bytes) (a : Nat) (bytes : List Byte) :
    P a bytes := by
  by_cases hne : bytes = []
  · exact hne ▸ nil a
  · have hpos : 0 < bytes.length := List.length_pos_iff.mpr hne
    exact cons a bytes hne (chunk_induction nil cons _ _)
termination_by bytes.length
decreasing_by
  have hk := chunk_pos (a := a) hpos
  rw [List.length_drop]
  omega

/-! ### Its properties -/

/-- One transaction for each page touched (41 R160). -/
theorem length_closedForm {bytes : List Byte} (hne : bytes ≠ []) (a : Nat) :
    (closedForm a bytes).length = pagesTouched a bytes.length := by
  induction a, bytes using chunk_induction with
  | nil a => exact absurd rfl hne
  | cons a bytes _ ih =>
    have hpos : 0 < bytes.length := List.length_pos_iff.mpr hne
    rw [closedForm_cons hne, List.length_cons]
    simp only [pagesTouched, Config.page, List.length_drop] at ih ⊢
    by_cases hrest : bytes.drop (chunk a bytes.length) = []
    · have hall : bytes.length ≤ chunk a bytes.length := List.drop_eq_nil_iff.mp hrest
      rw [hrest, closedForm_nil, List.length_nil]
      rw [chunk_eq] at hall
      omega
    · have hleft : ¬bytes.length ≤ chunk a bytes.length := mt List.drop_eq_nil_iff.mpr hrest
      rw [ih hrest]
      rw [chunk_eq] at hleft ⊢
      omega

/-- The transactions carry exactly the bytes, in order (41 R160). -/
theorem closedForm_flatMap_snd (a : Nat) (bytes : List Byte) : (closedForm a bytes).flatMap Prod.snd = bytes := by
  induction a, bytes using chunk_induction with
  | nil a => rw [closedForm_nil, List.flatMap_nil]
  | cons a bytes hne ih => rw [closedForm_cons hne, List.flatMap_cons, ih, List.take_append_drop]

/-- Every transaction has 1 to 64 bytes and stays in its page (41 R160). -/
theorem closedForm_bounds (a : Nat) (bytes : List Byte) :
    ∀ x ∈ closedForm a bytes, 1 ≤ x.2.length ∧ x.2.length ≤ 64 ∧ x.1 % 64 + x.2.length ≤ 64 := by
  induction a, bytes using chunk_induction with
  | nil a => simp
  | cons a bytes hne ih =>
    have hpos : 0 < bytes.length := List.length_pos_iff.mpr hne
    rw [closedForm_cons hne, List.forall_mem_cons]
    refine ⟨?_, ih⟩
    simp only [List.length_take, chunk_eq]
    omega

/-- The first transaction starts at the address (41 R160). -/
theorem closedForm_head {a : Nat} {bytes : List Byte} {x : Nat × List Byte}
    (hx : (closedForm a bytes)[0]? = some x) : bytes ≠ [] ∧ x.1 = a := by
  by_cases hne : bytes = []
  · simp [hne] at hx
  · rw [closedForm_cons hne, List.getElem?_cons_zero] at hx
    cases hx
    exact ⟨hne, rfl⟩

/-- Each transaction but the first starts at a page boundary, where its predecessor ends (41 R160). -/
theorem closedForm_contiguous (a : Nat) (bytes : List Byte) (k : Nat) (x y : Nat × List Byte)
    (hx : (closedForm a bytes)[k]? = some x) (hy : (closedForm a bytes)[k + 1]? = some y) :
    y.1 = x.1 + x.2.length ∧ y.1 % 64 = 0 := by
  induction a, bytes using chunk_induction generalizing k with
  | nil a => simp at hx
  | cons a bytes hne ih =>
    rw [closedForm_cons hne] at hx hy
    rw [List.getElem?_cons_succ] at hy
    cases k with
    | succ k => exact ih k hx hy
    | zero =>
      cases hx
      obtain ⟨hrest, hstart⟩ := closedForm_head hy
      have hleft : ¬bytes.length ≤ chunk a bytes.length := mt List.drop_eq_nil_iff.mpr hrest
      rw [hstart, List.length_take]
      rw [chunk_eq] at hleft ⊢
      omega

/-- Settles O46: each property by induction along the transactions. -/
theorem closedFormSplitsByPages : Obligations.ClosedFormSplitsByPages := fun a bytes =>
  ⟨fun h => h ▸ closedForm_nil a, fun h => length_closedForm h a, closedForm_flatMap_snd a bytes,
    closedForm_bounds a bytes, closedForm_contiguous a bytes, fun _ hx => (closedForm_head hx).2⟩

end Sys2Proof.Machine
end

section
/-! SUPPORT AND PROOFS for the family 41_eeprom_serializer.md, second part: the commands that complete at once, the
ones that start the sequencer, and its two moves that send nothing (41 R151 to R156, R159, R161). -/

namespace Sys2Proof.Machine

/-! ### The transport's calls on a device that is not busy -/

theorem drawsOf_present {s : State} (h : s.dev.present = true) (n : Nat) : drawsOf n s = 0 := by
  simp [drawsOf, h]

theorem drawsOf_absent {s : State} (h : s.dev.present = false) (n : Nat) : drawsOf n s = n := by
  simp [drawsOf, h]

theorem drawsOf_add (m n : Nat) (s : State) : drawsOf (m + n) s = drawsOf m s + drawsOf n s := by
  unfold drawsOf
  split <;> rfl

theorem transportPresent_of {s : State} (hfree : s.dev.busy = false) :
    transportPresent s = .next (s.dev.present, observe (.devicePresent s.dev.present) s) := by
  simp [transportPresent, hfree]

theorem transportGet_of {a : Nat} {s : State} (ha : a < 32768) (hfree : s.dev.busy = false) {v : Byte}
    (hv : (if s.dev.present then Memory.read s.dev.mem a else Config.freeByte s.draws) = v) :
    transportGet a s = .next (v, observe (.get a v) (countDraws (drawsOf 1 s) s)) := by
  have hr : inRange a 1 = true := (inRange_iff a 1).mpr (.inr ha)
  simp [transportGet, hr, hfree, hv]

theorem transportGetBuffer_of {a n : Nat} {s : State} (hr : inRange a n = true) (hfree : s.dev.busy = false) :
    transportGetBuffer a n s =
      .next (readAnswer a n s, observe (.getBuffer a n (readAnswer a n s)) (countDraws (drawsOf n s) s)) := by
  simp [transportGetBuffer, hr, hfree]

/-! ### The queries and the reads -/

/-- Settles O30: one `devicePresent`, then the response. -/
theorem probeAnswersPresence : Obligations.ProbeAnswersPresence := by
  intro s hfree
  simp only [exec, execProbe, transportPresent_of hfree, andThen_next]
  rfl

/-- Settles O31: the response is `CAP` as a word. -/
theorem capacityAnswersConstant : Obligations.CapacityAnswersConstant := fun _ => rfl

/-- A read of one byte is one `get` and the response (41 R153). -/
theorem exec_readByte_of {a : BitVec 16} {s : State} (ha : a.toNat < 32768) (hfree : s.dev.busy = false) {v : Byte}
    (hv : (if s.dev.present then Memory.read s.dev.mem a.toNat else Config.freeByte s.draws) = v) :
    exec (.readByte a) s =
      .next (respond (v.setWidth 16) [] (observe (.get a.toNat v) (countDraws (drawsOf 1 s) s))) := by
  simp only [exec, execReadByte, transportGet_of ha hfree hv, andThen_next]

/-- Settles O32: a present device draws nothing, an absent one draws the byte it answers. -/
theorem readByteAnswersTheByte : Obligations.ReadByteAnswersTheByte := by
  intro a s ha hfree
  constructor
  · intro hpresent
    rw [exec_readByte_of ha hfree (if_pos hpresent), drawsOf_present hpresent]
    rfl
  · intro habsent
    refine ⟨Config.freeByte s.draws, ?_⟩
    rw [exec_readByte_of ha hfree (if_neg (by simp [habsent])), drawsOf_absent habsent]
    rfl

/-- Settles O33: the bytes are `readAnswer`, which a present device takes from the contents (20 R62). -/
theorem readBufferAnswersTheBytes : Obligations.ReadBufferAnswersTheBytes := by
  intro a n s hrange hfree
  refine ⟨readAnswer a.toNat n.toNat s, readAnswer_length _ _ _, fun hpresent k hk => ?_, ?_⟩
  · rw [readAnswer, if_pos hpresent]
    exact readBytes_getElem? _ _ _ _ hk
  · simp only [exec, execReadBuffer, transportGetBuffer_of ((inRange_iff _ _).mpr hrange) hfree, andThen_next]
    have hdraws : (if s.dev.present then s.draws else s.draws + n.toNat) = s.draws + drawsOf n.toNat s := by
      rw [drawsOf]
      split <;> rfl
    rw [hdraws]
    rfl

/-! ### The starts of the sequencer -/

theorem widenAddress_eq (a : BitVec 16) : widenAddress a = BitVec.ofNat 17 a.toNat := by
  apply BitVec.eq_of_toNat_eq
  rw [widenAddress_toNat, toNat_ofNat_of_le (m := 2 ^ 16) a.isLt.le (by decide)]

theorem exec_writeByte_of {a : BitVec 16} (ha : a.toNat < 32768) (v : Byte) (s : State) :
    exec (.writeByte a v) s = .next (startWrite true a [v] s) := by
  have hr : inRange a.toNat 1 = true := (inRange_iff _ _).mpr (.inr ha)
  simp [exec, execWriteByte, hr]

theorem exec_writeBuffer_of {a : BitVec 16} {bytes : List Byte} (hne : bytes ≠ [])
    (hrange : a.toNat + bytes.length ≤ 32768) (s : State) :
    exec (.writeBuffer a bytes) s = .next (startWrite false a bytes s) := by
  have hr : inRange a.toNat bytes.length = true := (inRange_iff _ _).mpr (.inr hrange)
  simp [exec, execWriteBuffer, hne, hr]

/-- Settles O36: the range check passes and the sequencer starts with the one byte, marked as a single send. -/
theorem writeByteStartsSequencer : Obligations.WriteByteStartsSequencer := by
  intro a v s ha
  rw [exec_writeByte_of ha, ← widenAddress_eq]
  rfl

/-- Settles O37: the range check passes and the sequencer starts with all the bytes. -/
theorem writeBufferStartsSequencer : Obligations.WriteBufferStartsSequencer := by
  intro a bytes s hne hrange
  rw [exec_writeBuffer_of hne hrange, ← widenAddress_eq]
  rfl

/-- Settles O38: the empty request is answered before the range is looked at, and its word announces no byte. -/
theorem emptyWriteBufferCompletesAtOnce : Obligations.EmptyWriteBufferCompletesAtOnce := by
  refine fun a s => ⟨rfl, fun stream => ?_⟩
  change decodeCommand (wordM 0x15 a 0 0) stream = _
  rw [decodeCommand_writeBuffer, takePayload_eq_ok_iff]
  exact ⟨[], rfl, rfl, rfl⟩

/-! ### The moves that send nothing -/

theorem runMove_settleDone {s : State} (hphase : s.ser.phase = .settle) :
    runMove .settleDone s = .next (settleDoneStep s) :=
  if_pos ((settling_iff s).mpr hphase)

/-- Settles O40: the timer's move, with the schedule popped. -/
theorem settleEndsHold : Obligations.SettleEndsHold := by
  intro s moves hsched hphase
  rw [step_cons hsched]
  exact runMove_settleDone (s := { s with schedule := moves }) hphase

/-- With nothing left a transfer completes the command (41 R159). -/
theorem runMove_transfer_done {s : State} (hphase : s.ser.phase = .xfer) (hn : s.ser.n = 0) :
    runMove .transfer s = .next (completeCommand (clearSerializer s)) := by
  simp only [runMove, transferMove, hphase, if_true, transferStep, hn]

/-- Settles O41: the serializer is the cleared one. -/
theorem transferCompletesCommand : Obligations.TransferCompletesCommand := fun s hphase hn =>
  ⟨(clearSerializer s).ser, rfl, runMove_transfer_done hphase hn⟩

end Sys2Proof.Machine
end

section
/-! SUPPORT AND PROOFS for the family 41_eeprom_serializer.md, third part: what one transfer sends, and the whole write
commands. A write command is a loop of transfer and settle along the transactions of the closed form; what the loop has
made of the state is written once, as `sentState` (41 R156 to R164). -/

namespace Sys2Proof.Machine

/-! ### The bytes still to send -/

/-- `ser_buf[ser_p ..]`, what the request still has to send. -/
def unsent (q : Serializer) : List Byte := q.buf.drop q.p.toNat

theorem nextBytes_eq (q : Serializer) : nextBytes q = (unsent q).take (chunk q.a.toNat q.n.toNat) := rfl

section Sequencer

variable {q : Serializer} (hinv : SerializerInv q) (hphase : q.phase ≠ .idle)
include hinv hphase

theorem unsent_length : (unsent q).length = q.n.toNat := by
  have hrequest := (hinv.request hphase).1
  rw [unsent, List.length_drop]
  omega

theorem nextBytes_length : (nextBytes q).length = chunk q.a.toNat q.n.toNat := by
  rw [nextBytes_eq, List.length_take, unsent_length hinv hphase]
  exact Nat.min_eq_left (chunk_bounds _ _).1

/-- A request in progress is small enough for its registers, so an advance moves them exactly (41 R165). -/
theorem SerializerInv.advance_toNat :
    (Machine.advance q).a.toNat = q.a.toNat + chunk q.a.toNat q.n.toNat ∧
      (Machine.advance q).p.toNat = q.p.toNat + chunk q.a.toNat q.n.toNat ∧
      (Machine.advance q).n.toNat + chunk q.a.toNat q.n.toNat = q.n.toNat := by
  obtain ⟨hrequest, hlength⟩ := hinv.request hphase
  have hrange := hinv.in_range hphase
  simp only [Config.cap] at hlength hrange
  exact Machine.advance_toNat (by omega) (by omega)

theorem unsent_advance : unsent (advance q) = (unsent q).drop (chunk q.a.toNat q.n.toNat) := by
  obtain ⟨-, hp, -⟩ := hinv.advance_toNat hphase
  rw [unsent, hp, unsent, List.drop_drop]
  rfl

/-- A `WriteByte` with its byte unsent sends just that byte (41 R156). -/
theorem nextBytes_single (hn : q.n ≠ 0) (hsingle : q.single = true) : ∃ v, nextBytes q = [v] := by
  have hpos : 0 < q.n.toNat := BitVec.toNat_pos_of_ne_zero hn
  have hrequest := (hinv.request hphase).1
  have hone := hinv.one_byte hphase hsingle
  have hk : chunk q.a.toNat q.n.toNat = 1 := by
    rw [chunk_eq]
    omega
  exact List.length_eq_one_iff.mp ((nextBytes_length hinv hphase).trans hk)

end Sequencer

/-! ### What the bytes do to memory -/

/-- `m'` is `m` with the bytes written from address `a` on, or, behind an absent device, with anything at all there. -/
structure Fills (present : Bool) (a : Nat) (bytes : List Byte) (m m' : Memory) : Prop where
  wf : m'.wf = true
  stored : present = true → ∀ j, j < bytes.length → bytes[j]? = some (Memory.read m' (a + j))
  outside : ∀ b, b < a ∨ a + bytes.length ≤ b → Memory.read m' b = Memory.read m b

theorem Fills.nil (present : Bool) (a : Nat) {m : Memory} (hm : m.wf = true) : Fills present a [] m m :=
  ⟨hm, fun _ j hj => absurd hj (Nat.not_lt_zero j), fun _ _ => rfl⟩

/-- Two writes one behind the other. -/
theorem Fills.append {present : Bool} {a : Nat} {xs ys : List Byte} {m m' m'' : Memory}
    (hxs : Fills present a xs m m') (hys : Fills present (a + xs.length) ys m' m'') :
    Fills present a (xs ++ ys) m m'' := by
  refine ⟨hys.wf, fun hpresent j hj => ?_, fun b hb => ?_⟩
  · rw [List.length_append] at hj
    by_cases hfirst : j < xs.length
    · rw [List.getElem?_append_left hfirst, hys.outside _ (by omega)]
      exact hxs.stored hpresent j hfirst
    · rw [List.getElem?_append_right (by omega), hys.stored hpresent _ (by omega)]
      congr 2
      omega
  · rw [List.length_append] at hb
    rw [hys.outside b (by omega), hxs.outside b (by omega)]

/-- A transaction inside one page wraps nowhere: byte `j` lands at `a + j` (20 R68, 41 R160). -/
theorem fills_storeFrom {m : Memory} {a : Nat} {bytes : List Byte} {s : State} (hm : m.wf = true)
    (ha : a < Config.cap) (hpage : a % Config.page + bytes.length ≤ Config.page) :
    Fills s.dev.present a bytes m (Memory.storeFrom m a 0 (storedBytes bytes s)) := by
  have hwrap : ∀ j, j < bytes.length → wrapAddress a (0 + j) = a + j := fun j hj => by
    rw [Nat.zero_add]
    exact wrapAddress_inside (by omega)
  refine ⟨storeFrom_wf hm ha, fun hpresent j hj => ?_, fun b hb => storeFrom_other hm ha fun j hj => ?_⟩
  · have hstored : storedBytes bytes s = bytes := if_pos hpresent
    have hbyte : bytes[j]? = some bytes[j] := List.getElem?_eq_getElem hj
    rw [hstored, ← hwrap j hj, storeFrom_stored hm ha (by omega) hbyte, hbyte]
  · rw [storedBytes_length] at hj
    rw [hwrap j hj]
    omega

/-! ### One transfer -/

/-- The transport call of a transaction (41 R156, R157). -/
def call : Bool → Nat × List Byte → Observation
  | true, x => .send x.1 (x.2.headD 0)
  | false, x => .sendBuffer x.1 x.2

/-- What a transfer with bytes left makes of the state: one chunk is sent and its settle begins (41 R159, R163). -/
def sendChunk (s : State) : State :=
  { s with
    ser := advance s.ser
    dev :=
      { s.dev with
        mem := Memory.storeFrom s.dev.mem s.ser.a.toNat 0 (storedBytes (nextBytes s.ser) s)
        busy := true
        page := s.ser.a.toNat / Config.page }
    history := call s.ser.single (s.ser.a.toNat, nextBytes s.ser) :: s.history
    draws := s.draws + drawsOf (nextBytes s.ser).length s }

section Transfer

variable {s : State} (hphase : s.ser.phase = .xfer) (hinv : SerializerInv s.ser) (hn : s.ser.n ≠ 0)
include hphase hinv hn

theorem nextTransaction_of (hfree : s.dev.busy = false) :
    nextTransaction s = .next { sendChunk s with ser := s.ser } := by
  have hbusy : s.ser.phase ≠ .idle := by simp [hphase]
  have hpos : 0 < s.ser.n.toNat := BitVec.toNat_pos_of_ne_zero hn
  have ha : s.ser.a.toNat < Config.cap := by
    have := hinv.in_range hbusy
    omega
  cases hsingle : s.ser.single with
  | true =>
    obtain ⟨v, hv⟩ := nextBytes_single hinv hbusy hn hsingle
    simp only [nextTransaction, hsingle, if_true, hv, transportSend_of ha hfree, sendChunk]
    rfl
  | false =>
    have hne : nextBytes s.ser ≠ [] := by
      rw [← List.length_pos_iff, nextBytes_length hinv hbusy]
      exact chunk_pos hpos
    simp only [nextTransaction, hsingle, Bool.false_eq_true, if_false, transportSendBuffer_of hne ha hfree, sendChunk]
    rfl

theorem runMove_transfer_sends (hfree : s.dev.busy = false) : runMove .transfer s = .next (sendChunk s) := by
  simp only [runMove, transferMove, hphase, if_true, transferStep, hn, if_false,
    nextTransaction_of hphase hinv hn hfree, andThen_next]
  rfl

theorem fills_sendChunk (hwf : s.dev.mem.wf = true) :
    Fills s.dev.present s.ser.a.toNat (nextBytes s.ser) s.dev.mem (sendChunk s).dev.mem := by
  have hbusy : s.ser.phase ≠ .idle := by simp [hphase]
  have hpos : 0 < s.ser.n.toNat := BitVec.toNat_pos_of_ne_zero hn
  have hrange := hinv.in_range hbusy
  refine fills_storeFrom hwf (by omega) ?_
  rw [nextBytes_length hinv hbusy]
  exact (chunk_bounds _ _).2

end Transfer

/-- Settles O39: the transfer is `sendChunk`, whose bytes fill the addresses from `ser_a` on. -/
theorem transferSendsOneChunk : Obligations.TransferSendsOneChunk := by
  intro s hphase hn hsingle hinv hwf hfree hpresent k bytes
  have hbusy : s.ser.phase ≠ .idle := by simp [hphase]
  have hlength : bytes.length = k := nextBytes_length hinv hbusy
  obtain ⟨ha, hp, hleft⟩ := hinv.advance_toNat hbusy
  have hfill := fills_sendChunk hphase hinv hn hwf
  refine ⟨sendChunk s, runMove_transfer_sends hphase hinv hn hfree, chunk_pos (BitVec.toNat_pos_of_ne_zero hn),
    (chunk_bounds _ _).2, hlength, rfl, ha, hp, hleft, rfl, hsingle, ?_, ?_, ?_⟩
  · exact hlength ▸ hfill.stored hpresent
  · exact hlength ▸ hfill.outside
  · simp only [sendChunk, hsingle, hpresent, drawsOf_present hpresent]
    rfl

/-- Settles O48: the same `sendChunk`; behind an absent device it leaves the addresses of the chunk open. -/
theorem absentDeviceWritesOnlyAddressedBytes : Obligations.AbsentDeviceWritesOnlyAddressedBytes := by
  intro s hphase hn hinv hwf hfree habsent k bytes
  have hbusy : s.ser.phase ≠ .idle := by simp [hphase]
  have hlength : bytes.length = k := nextBytes_length hinv hbusy
  obtain ⟨ha, hp, hleft⟩ := hinv.advance_toNat hbusy
  have hfill := fills_sendChunk hphase hinv hn hwf
  refine ⟨sendChunk s, call s.ser.single (s.ser.a.toNat, bytes), runMove_transfer_sends hphase hinv hn hfree, hlength,
    fun hsingle => by rw [hsingle]; rfl, fun hsingle => ?_, rfl, ha, hp, hleft, rfl, rfl, hfill.wf, ?_, ?_⟩
  · obtain ⟨v, hv⟩ := nextBytes_single hinv hbusy hn hsingle
    have hbytes : bytes = [v] := hv
    exact ⟨v, hbytes, by rw [hsingle, hbytes]; rfl⟩
  · exact hlength ▸ hfill.outside
  · have hdraws : s.draws + drawsOf (nextBytes s.ser).length s = s.draws + k := by
      rw [drawsOf_absent habsent, nextBytes_length hinv hbusy]
      rfl
    simp only [sendChunk, hdraws, habsent]
    rfl

/-! ### A whole write command -/

/-- The command in progress has just these bytes left to send, from this address on, and the device is ready. -/
structure Writing (a : Nat) (bytes : List Byte) (s : State) : Prop where
  phase : s.ser.phase = .xfer
  inv : SerializerInv s.ser
  address : s.ser.a.toNat = a
  left : unsent s.ser = bytes
  free : s.dev.busy = false

/-- The history of some transactions, newest first: each call, then its settle (41 R159). -/
def callsAndSettles (single : Bool) (calls : List (Nat × List Byte)) : List Observation :=
  calls.reverse.flatMap fun x => [.settled, call single x]

theorem callsAndSettles_cons (single : Bool) (x : Nat × List Byte) (calls : List (Nat × List Byte)) :
    callsAndSettles single (x :: calls) = callsAndSettles single calls ++ [.settled, call single x] := by
  simp [callsAndSettles]

/-- What the transfers and settles of these bytes make of the state: the serializer, the memory and the device's page,
the history and the draws change. -/
def sentState (a : Nat) (bytes : List Byte) (s : State) (q : Serializer) (m : Memory) : State :=
  { s with
    ser := q
    dev :=
      { mem := m, present := s.dev.present, busy := false,
        page := if bytes = [] then s.dev.page else (a + bytes.length - 1) / Config.page }
    history := callsAndSettles s.ser.single (closedForm a bytes) ++ s.history
    draws := s.draws + drawsOf bytes.length s }

/-- One transfer and its settle. -/
def sendAndSettle (s : State) : State := settleDoneStep (sendChunk s)

section Writing

variable {a : Nat} {bytes : List Byte} {s : State} (h : Writing a bytes s)
include h

theorem Writing.not_idle : s.ser.phase ≠ .idle := by simp [h.phase]

theorem Writing.count : s.ser.n.toNat = bytes.length := by
  rw [← h.left, unsent_length h.inv h.not_idle]

theorem Writing.count_eq_zero_iff : s.ser.n = 0 ↔ bytes = [] := by
  rw [← List.length_eq_zero_iff, ← h.count, BitVec.toNat_eq]
  rfl

theorem Writing.nextBytes : Machine.nextBytes s.ser = bytes.take (chunk a bytes.length) := by
  rw [nextBytes_eq, h.left, h.address, h.count]

/-- One transfer and its settle leave the bytes behind the chunk. -/
theorem Writing.sendAndSettle :
    Writing (a + chunk a bytes.length) (bytes.drop (chunk a bytes.length)) (sendAndSettle s) := by
  have hadvance := h.inv.advance h.not_idle
  have hsettle : (advance s.ser).phase ≠ .idle := SerPhase.noConfusion
  obtain ⟨ha, -, -⟩ := h.inv.advance_toNat h.not_idle
  have hleft := unsent_advance h.inv h.not_idle
  rw [h.address, h.count] at ha hleft
  rw [h.left] at hleft
  exact ⟨rfl,
    ⟨fun _ => hadvance.request hsettle, fun _ => hadvance.in_range hsettle, fun _ => hadvance.one_byte hsettle⟩,
    ha, hleft, rfl⟩

theorem Writing.runMoves_pair (hne : bytes ≠ []) (moves : List Move) :
    runMoves (.transfer :: .settleDone :: moves) s = runMoves moves (Machine.sendAndSettle s) := by
  have hn : s.ser.n ≠ 0 := mt h.count_eq_zero_iff.mp hne
  simp only [runMoves, runMove_transfer_sends h.phase h.inv hn h.free, andThen_next,
    runMove_settleDone (s := sendChunk s) rfl]
  rfl

theorem Writing.sentState_nil (hnil : bytes = []) : sentState a bytes s s.ser s.dev.mem = s := by
  have hdraws : drawsOf 0 s = 0 := by simp [drawsOf]
  have hdev : { s.dev with busy := false } = s.dev := by rw [← h.free]
  subst hnil
  simp only [sentState, if_true, closedForm_nil, List.length_nil, hdraws]
  rw [hdev]
  rfl

end Writing

section

variable {a : Nat} {bytes : List Byte} {s : State}

/-- The page after the first chunk and the rest is that of the last byte. -/
theorem page_after_chunk (hne : bytes ≠ []) :
    (if bytes.drop (chunk a bytes.length) = [] then a / Config.page
      else (a + chunk a bytes.length + (bytes.drop (chunk a bytes.length)).length - 1) / Config.page) =
      (a + bytes.length - 1) / Config.page := by
  have hpos : 0 < bytes.length := List.length_pos_iff.mpr hne
  simp only [List.drop_eq_nil_iff, List.length_drop, chunk_eq, Config.page]
  split <;> omega

/-- The first chunk with its settle, then the rest, is the whole. -/
theorem Writing.sentState_cons (h : Writing a bytes s) (hne : bytes ≠ []) (q : Serializer) (m : Memory) :
    sentState (a + chunk a bytes.length) (bytes.drop (chunk a bytes.length)) (Machine.sendAndSettle s) q m =
      sentState a bytes s q m := by
  have hhistory : (Machine.sendAndSettle s).history =
      .settled :: call s.ser.single (a, bytes.take (chunk a bytes.length)) :: s.history := by
    rw [← h.nextBytes, ← h.address]
    rfl
  have hpage : (Machine.sendAndSettle s).dev.page = a / Config.page := by
    rw [← h.address]
    rfl
  have hdraws : (Machine.sendAndSettle s).draws = s.draws + drawsOf (bytes.take (chunk a bytes.length)).length s := by
    rw [← h.nextBytes]
    rfl
  have hsum : drawsOf bytes.length s =
      drawsOf (bytes.take (chunk a bytes.length)).length s + drawsOf (bytes.drop (chunk a bytes.length)).length s := by
    rw [← drawsOf_add, ← List.length_append, List.take_append_drop]
  simp only [sentState, hhistory, hpage, page_after_chunk hne, hdraws, if_neg hne, closedForm_cons hne,
    callsAndSettles_cons, List.append_assoc, hsum, ← Nat.add_assoc]
  rfl

end

/-- A write in progress runs to its end: transfers and settles alternate, one pair for each transaction, and the last
transfer completes the command (41 R159). -/
theorem Writing.runMoves_writeMoves (a : Nat) (bytes : List Byte) : ∀ s, Writing a bytes s →
    ∃ q m, runMoves (writeMoves (closedForm a bytes).length) s =
        .next (completeCommand (clearSerializer (sentState a bytes s q m))) ∧
      (s.dev.mem.wf = true → Fills s.dev.present a bytes s.dev.mem m) := by
  induction a, bytes using chunk_induction with
  | nil a =>
    intro s h
    refine ⟨s.ser, s.dev.mem, ?_, Fills.nil _ a⟩
    rw [h.sentState_nil rfl, closedForm_nil]
    simp only [List.length_nil, writeMoves, runMoves, runMove_transfer_done h.phase (h.count_eq_zero_iff.mpr rfl),
      andThen_next]
  | cons a bytes hne ih =>
    intro s h
    obtain ⟨q, m, hrun, hfill⟩ := ih _ h.sendAndSettle
    refine ⟨q, m, ?_, fun hwf => ?_⟩
    · rw [closedForm_cons hne, List.length_cons, writeMoves, h.runMoves_pair hne, hrun, h.sentState_cons hne]
    · have hn : s.ser.n ≠ 0 := mt h.count_eq_zero_iff.mp hne
      have hchunk := fills_sendChunk h.phase h.inv hn hwf
      rw [h.nextBytes, h.address] at hchunk
      have hlength : (bytes.take (chunk a bytes.length)).length = chunk a bytes.length := by
        rw [List.length_take]
        exact Nat.min_eq_left (chunk_bounds _ _).1
      rw [← List.take_append_drop (chunk a bytes.length) bytes]
      refine hchunk.append ?_
      rw [hlength]
      exact hfill hchunk.wf

/-- A write command in range starts with all its bytes left to send. -/
theorem writing_startWrite {single : Bool} {a : BitVec 16} {bytes : List Byte} {s : State}
    (hrange : a.toNat + bytes.length ≤ 32768) (hsingle : single = true → bytes.length = 1)
    (hfree : s.dev.busy = false) : Writing a.toNat bytes (startWrite single a bytes s) := by
  have hfits : (BitVec.ofNat 16 bytes.length).toNat = bytes.length :=
    toNat_ofNat_of_le (m := 32768) (by omega) (by decide)
  refine ⟨rfl, ⟨fun _ => ?_, fun _ => ?_, fun _ => hsingle⟩, widenAddress_toNat a, rfl, hfree⟩
  · simp only [startWrite_ser, hfits, Config.cap]
    exact ⟨Nat.zero_add _, by omega⟩
  · simp only [startWrite_ser, hfits, widenAddress_toNat]
    exact hrange

/-- What a whole write command, run to completion, makes of the state. -/
def writtenState (single : Bool) (a : Nat) (bytes : List Byte) (s : State) (q : Serializer) (m : Memory) : State :=
  { s with
    port := { s.port with cmdReady := true, rsp := 0, rdata := [] }
    ser := q
    dev :=
      { mem := m, present := s.dev.present, busy := false, page := (a + bytes.length - 1) / Config.page }
    history := .response 0 [] :: callsAndSettles single (closedForm a bytes) ++ s.history
    draws := s.draws + drawsOf bytes.length s + 1 }

/-- A whole write command, of either kind and behind any device that is not busy: it ends, with the transactions of
the closed form, and its bytes are in their places (41 R156 to R160, R164). -/
theorem startWrite_runs {single : Bool} {a : BitVec 16} {bytes : List Byte} {s : State} (hne : bytes ≠ [])
    (hrange : a.toNat + bytes.length ≤ 32768) (hsingle : single = true → bytes.length = 1)
    (hfree : s.dev.busy = false) :
    ∃ q m, runMoves (writeMoves (pagesTouched a.toNat bytes.length)) (startWrite single a bytes s) =
        .next (writtenState single a.toNat bytes s q m) ∧
      q.phase = .idle ∧ (s.dev.mem.wf = true → Fills s.dev.present a.toNat bytes s.dev.mem m) := by
  obtain ⟨q, m, hrun, hfill⟩ := Writing.runMoves_writeMoves _ _ _ (writing_startWrite hrange hsingle hfree)
  refine ⟨(clearSerializer (sentState a.toNat bytes (startWrite single a bytes s) q m)).ser, m, ?_, rfl, hfill⟩
  rw [← length_closedForm hne, hrun]
  simp only [sentState, if_neg hne]
  rfl

/-- Settles O43: `startWrite_runs` with a present device, which draws nothing. -/
theorem writeBufferRunsToCompletion : Obligations.WriteBufferRunsToCompletion := by
  intro a bytes s hne hrange hwf hfree hpresent
  obtain ⟨q, m, hrun, hidle, hfill⟩ := startWrite_runs (single := false) hne hrange nofun hfree
  obtain ⟨hmem, hstored, houtside⟩ := hfill hwf
  refine ⟨_, by rw [exec_writeBuffer_of hne hrange, andThen_next, hrun], hstored hpresent, houtside, hmem, hidle,
    ?_⟩
  simp only [writtenState, hpresent, drawsOf_present hpresent]
  rfl

/-- Settles O44: `startWrite_runs` with an absent device, which draws a free value for each byte. -/
theorem absentDeviceRunsTheWholeList : Obligations.AbsentDeviceRunsTheWholeList := by
  intro a bytes s hne hrange hwf hfree habsent
  obtain ⟨q, m, hrun, hidle, hfill⟩ := startWrite_runs (single := false) hne hrange nofun hfree
  obtain ⟨hmem, -, houtside⟩ := hfill hwf
  refine ⟨_, by rw [exec_writeBuffer_of hne hrange, andThen_next, hrun], houtside, hmem, hidle, ?_⟩
  simp only [writtenState, habsent, drawsOf_absent habsent]
  rfl

/-- One byte is one transaction. -/
theorem closedForm_singleton (a : Nat) (v : Byte) : closedForm a [v] = [(a, [v])] := by
  have hk : chunk a [v].length = 1 := by
    rw [chunk_eq, List.length_singleton]
    omega
  rw [closedForm_cons (List.cons_ne_nil _ _), hk]
  exact congrArg _ (closedForm_nil _)

/-- Settles O42: `startWrite_runs` with one byte, whose closed form is one transaction. -/
theorem writeByteRunsToCompletion : Obligations.WriteByteRunsToCompletion := by
  intro a v s ha hwf hfree hpresent
  obtain ⟨q, m, hrun, hidle, hfill⟩ :=
    startWrite_runs (single := true) (List.cons_ne_nil v []) (a := a) ha (fun _ => rfl) hfree
  obtain ⟨hmem, hstored, houtside⟩ := hfill hwf
  have hcount : pagesTouched a.toNat [v].length = 1 := by
    rw [← length_closedForm (List.cons_ne_nil _ _), closedForm_singleton, List.length_singleton]
  rw [hcount] at hrun
  refine ⟨_, by rw [exec_writeByte_of ha, andThen_next, hrun], ?_, fun b hb => houtside b ?_, hmem, hidle, ?_⟩
  · exact (Option.some.inj (hstored hpresent 0 Nat.one_pos)).symm
  · rw [List.length_singleton]
    omega
  · simp only [writtenState, hpresent, drawsOf_present hpresent, closedForm_singleton]
    rfl

/-- Settles O47: `startWrite_runs`, with the closed form of the example evaluated. -/
theorem workedWriteExample : Obligations.WorkedWriteExample := by
  refine ⟨rfl, rfl, rfl, fun bytes s hlength hfree => ?_⟩
  have hne : bytes ≠ [] := List.ne_nil_of_length_pos (by omega)
  have hrange : (100 : BitVec 16).toNat + bytes.length ≤ 32768 := by rw [hlength]; decide
  have hcalls : closedForm 100 bytes =
      [(100, bytes.take 28), (128, (bytes.drop 28).take 64), (192, bytes.drop 92)] := by
    rw [closedForm_of_unaligned hne (by decide)]
    simp [chunk_eq, pagesFrom, hlength]
  obtain ⟨q, m, hrun, -, -⟩ := startWrite_runs (single := false) hne hrange nofun hfree
  rw [hlength] at hrun
  refine ⟨_, by rw [exec_writeBuffer_of hne hrange, andThen_next]; exact hrun, ?_, ?_, ?_, ?_⟩
  · change .response 0 [] :: callsAndSettles false (closedForm 100 bytes) ++ s.history = _
    rw [hcalls]
    rfl
  · simp [hlength]
  · simp [hlength]
  · simp [hlength]

end Sys2Proof.Machine
end

section
/-! SUPPORT AND PROOFS for the family 41_eeprom_serializer.md, fourth part: what a step adds to the history. During a
settle no transaction is issued (41 R163), and every buffer write stays inside one page (41 R157, R160). -/

namespace Sys2Proof.Machine

/-! ### What a piece of a step adds to the history -/

/-- From `s` to `t` the history only grows, by observations of the kind `P`. -/
def Adds (P : Observation → Prop) (s t : State) : Prop :=
  ∃ new, t.history = new ++ s.history ∧ ∀ o ∈ new, P o

theorem Adds.of_unchanged {P : Observation → Prop} {s t : State} (h : t.history = s.history) : Adds P s t :=
  ⟨[], h, fun _ ho => absurd ho List.not_mem_nil⟩

theorem Adds.refl (P : Observation → Prop) (s : State) : Adds P s s := .of_unchanged rfl

theorem Adds.one {P : Observation → Prop} {s t : State} {o : Observation} (h : t.history = o :: s.history)
    (ho : P o) : Adds P s t :=
  ⟨[o], h, by simpa using ho⟩

theorem Adds.trans {P : Observation → Prop} {s t u : State} (hst : Adds P s t) (htu : Adds P t u) : Adds P s u := by
  obtain ⟨first, hfirst, hP⟩ := hst
  obtain ⟨second, hsecond, hP'⟩ := htu
  refine ⟨second ++ first, by rw [hsecond, hfirst, List.append_assoc], fun o ho => ?_⟩
  exact (List.mem_append.mp ho).elim (hP' o) (hP o)

theorem Adds.mono {P Q : Observation → Prop} {s t : State} (h : Adds P s t) (hPQ : ∀ o, P o → Q o) :
    Adds Q s t := by
  obtain ⟨new, hnew, hP⟩ := h
  exact ⟨new, hnew, fun o ho => hPQ o (hP o ho)⟩

/-- An observation that is no transport transaction. -/
def Quiet (o : Observation) : Prop := o.isTransaction = false

theorem adds_emitDuty (c : Channel) (v : Byte) (s : State) : Adds Quiet s (emitDuty c v s) := .one rfl rfl

theorem adds_emitAll (d : Duties) (s : State) : Adds Quiet s (emitAll d s) :=
  (adds_emitDuty .ch1 d.ch1 s).trans
    ((adds_emitDuty .ch2 d.ch2 _).trans ((adds_emitDuty .ch3 d.ch3 _).trans (adds_emitDuty .ch4 d.ch4 _)))

theorem adds_respond (r : BitVec 16) (b : List Byte) (s : State) : Adds Quiet s (respond r b s) := .one rfl rfl

theorem adds_applyDuties (d : Duties) (s : State) : Adds Quiet s (applyDuties d s) :=
  Adds.trans (.of_unchanged rfl) (adds_emitAll d _)

theorem adds_tickBody (s : State) : Adds Quiet s (tickBody s) := by
  have hcalls : Adds Quiet s (tickCalls s) := by
    unfold tickCalls
    split
    · exact adds_emitAll _ s
    · exact .refl _ s
  rw [tickBody_eq]
  exact hcalls.trans (.of_unchanged rfl)

theorem adds_execOnTick {s t : State} (h : exec .onTick s = .next t) : Adds Quiet s t := by
  cases h
  exact (adds_tickBody s).trans (.of_unchanged rfl)

theorem adds_applyImmediateStep (s : State) : Adds Quiet s (applyImmediateStep s) := by
  unfold applyImmediateStep
  split
  · next w _ =>
    split
    · exact (adds_applyDuties w.duties s).trans (.one rfl rfl)
    · exact .refl _ s
  · exact .refl _ s

theorem adds_resetStep (s : State) : Adds Quiet s (resetStep s) :=
  (adds_emitAll s.resetDuty s).trans (.of_unchanged (resetStep_history s))

theorem adds_entryMove {s t : State} (h : entryMove s = .next t) : Adds Quiet s t := by
  have henter : Adds Quiet s (enterHandler s) := .of_unchanged (enterHandler_history s)
  rcases entryMove_cases h with rfl | ⟨-, -, htick⟩ | rfl
  · exact .refl _ _
  · exact henter.trans (adds_execOnTick htick)
  · exact henter.trans (.of_unchanged rfl)

theorem adds_settleMove {s t : State} (h : settleMove s = .next t) : Adds Quiet s t := by
  unfold settleMove at h
  split at h <;> cases h
  · exact .one rfl rfl
  · exact .refl _ _

theorem adds_deviceMove {s t : State} (h : deviceMove s = .next t) : Adds Quiet s t := by
  unfold deviceMove at h
  split at h <;> cases h <;> exact .of_unchanged rfl

/-- Only the host and the sequencer ever issue transactions. -/
theorem runMove_quiet {m : Move} {s t : State} (h : runMove m s = .next t) (hhost : m ≠ .host)
    (htransfer : m ≠ .transfer) : Adds Quiet s t := by
  cases m with
  | host => exact absurd rfl hhost
  | transfer => exact absurd rfl htransfer
  | entry => exact adds_entryMove h
  | settleDone => exact adds_settleMove h
  | deviceDone => exact adds_deviceMove h
  | applyImmediate => cases h; exact adds_applyImmediateStep s
  | reset => cases h; exact adds_resetStep s
  | raise _ | setPresent _ => cases h; exact .of_unchanged rfl

/-! ### While a settle runs -/

/-- A blocked host makes no move (30 R97). -/
theorem hostMove_blocked {s t : State} (hready : s.port.cmdReady = false) (h : hostMove s = .next t) : t = s := by
  rcases hostMove_cases h with rfl | ⟨_, _, _, _, -, hport, -⟩
  · rfl
  · simp [hready] at hport

section Settling

variable {s t : State} {m : Move} (hphase : s.ser.phase = .settle) (hready : s.port.cmdReady = false)
  (hmove : runMove m s = .next t)
include hphase hready hmove

/-- During a settle the host is blocked and the sequencer waits (41 R163). -/
theorem settling_quiet : Adds Quiet s t := by
  cases m with
  | host =>
    rw [hostMove_blocked hready hmove]
    exact .refl _ s
  | transfer =>
    have hwaits : transferMove s = .next s := if_neg (by simp [hphase])
    cases hwaits.symm.trans hmove
    exact .refl _ s
  | _ => exact runMove_quiet hmove nofun nofun

/-- During a settle only the reset frees the port (70 R231); no `SetImmediate` waits for its phase B. -/
theorem settling_not_ready (hwait : s.port.immWait = none) (hm : m ≠ .reset) : t.port.cmdReady = false := by
  cases m with
  | host => rwa [hostMove_blocked hready hmove]
  | entry =>
    rcases entryMove_cases hmove with rfl | ⟨-, -, htick⟩ | rfl
    · exact hready
    · cases htick
      simpa using hready
    · simpa using hready
  | transfer =>
    have hwaits : transferMove s = .next s := if_neg (by simp [hphase])
    cases hwaits.symm.trans hmove
    exact hready
  | settleDone =>
    cases (runMove_settleDone hphase).symm.trans hmove
    exact hready
  | deviceDone =>
    have hwaits : deviceMove s = .next s := if_pos ((settling_iff s).mpr hphase)
    cases hwaits.symm.trans hmove
    exact hready
  | applyImmediate =>
    have hnone : applyImmediateStep s = s := by simp [applyImmediateStep, hwait]
    cases hmove
    rwa [hnone]
  | raise _ | setPresent _ => cases hmove; exact hready
  | reset => exact absurd rfl hm

end Settling

/-- Settles O56: the invariants say that during a settle the port is not ready and no `SetImmediate` waits. -/
theorem noTransactionWhileSettling : Obligations.NoTransactionWhileSettling := by
  intro s t hinv hphase hstep
  have hbusy : s.ser.phase ≠ .idle := by simp [hphase]
  have hready : s.port.cmdReady = false :=
    Bool.eq_false_iff.mpr fun h => hbusy (hinv.port.ready_iff.mp h).1
  rcases step_cases hstep with ⟨-, rfl⟩ | ⟨m, moves, hsched, hmove⟩
  · exact ⟨Adds.refl Quiet _, fun _ => hready⟩
  · have hquiet := settling_quiet (s := { s with schedule := moves }) hphase hready hmove
    refine ⟨hquiet, fun hreset => ?_⟩
    have hm : m ≠ .reset := fun h => hreset moves (h ▸ hsched)
    exact settling_not_ready (s := { s with schedule := moves }) hphase hready hmove (hinv.port.one_command hbusy) hm

/-! ### Buffer writes inside one page -/

/-- An observation that, if it is a buffer write, has 1 to 64 bytes inside one page and inside the device (41 R160). -/
def InsideOnePage : Observation → Prop
  | .sendBuffer a bytes => 1 ≤ bytes.length ∧ a % 64 + bytes.length ≤ 64 ∧ a + bytes.length ≤ 32768
  | _ => True

theorem Quiet.insideOnePage : ∀ o, Quiet o → InsideOnePage o
  | .sendBuffer _ _ => nofun
  | .duty _ _ | .devicePresent _ | .get _ _ | .getBuffer _ _ _ | .send _ _ | .settled | .response _ _ =>
    fun _ => trivial

/-- A command issues no buffer write when it is executed: `WriteBuffer` only starts the sequencer (41 R159). -/
theorem exec_insideOnePage {i : Instr} {s t : State} (h : exec i s = .next t) : Adds InsideOnePage s t := by
  have quiet : Adds Quiet s t → Adds InsideOnePage s t := fun hquiet => hquiet.mono Quiet.insideOnePage
  cases i with
  | setImmediate d1 d2 d3 d4 =>
    cases hmode : s.setImmMode with
    | atomic =>
      rw [exec_setImmediate_atomic hmode] at h
      cases h
      exact quiet (Adds.trans (.of_unchanged rfl) ((adds_applyDuties _ (cancelRamp s)).trans (adds_respond _ _ _)))
    | twoPhase =>
      rw [exec_setImmediate_twoPhase hmode] at h
      cases h
      exact .of_unchanged rfl
  | beginRamp t1 t2 t3 t4 f hold =>
    by_cases hidle : s.engine.tag = .idle
    · rw [exec_beginRamp_idle hidle] at h
      cases h
      exact .one rfl trivial
    · rw [exec_beginRamp_busy hidle] at h
      cases h
      exact .one rfl trivial
  | isBusy | capacity => cases h; exact .one rfl trivial
  | probe =>
    obtain ⟨⟨b, u⟩, hcall, hresp⟩ := andThen_eq_next h
    obtain ⟨-, -, rfl⟩ := transportPresent_next hcall
    cases hresp
    exact ⟨[.response _ _, .devicePresent _], rfl, by simp [InsideOnePage]⟩
  | readByte a =>
    obtain ⟨⟨v, u⟩, hcall, hresp⟩ := andThen_eq_next h
    obtain ⟨-, -, -, rfl⟩ := transportGet_next hcall
    cases hresp
    exact ⟨[.response _ _, .get _ _], rfl, by simp [InsideOnePage]⟩
  | readBuffer a n =>
    obtain ⟨⟨v, u⟩, hcall, hresp⟩ := andThen_eq_next h
    obtain ⟨-, -, -, rfl⟩ := transportGetBuffer_next hcall
    cases hresp
    exact ⟨[.response _ _, .getBuffer _ _ _], rfl, by simp [InsideOnePage]⟩
  | writeByte a v =>
    simp only [exec, execWriteByte] at h
    split at h <;> cases h
    exact .of_unchanged rfl
  | writeBuffer a bytes =>
    simp only [exec, execWriteBuffer] at h
    split at h
    · cases h
      exact .one rfl trivial
    · split at h <;> cases h
      exact .of_unchanged rfl
  | onTick => exact quiet (adds_execOnTick h)
  | sensorHandler | rxHandler => cases h; exact .of_unchanged rfl

theorem hostMove_insideOnePage {s t : State} (h : hostMove s = .next t) : Adds InsideOnePage s t := by
  rcases hostMove_cases h with rfl | ⟨c, rest, i, left, -, -, -, hexec⟩
  · exact .refl _ _
  · exact Adds.trans (t := takeCommand rest left s) (.of_unchanged rfl) (exec_insideOnePage hexec)

/-- A transaction of the sequencer finds the device free (42 R186). -/
theorem free_of_nextTransaction {s t : State} (h : nextTransaction s = .next t) : s.dev.busy = false := by
  unfold nextTransaction at h
  split at h
  · split at h
    · cases h
    · exact (transportSend_next h).2.1
  · exact (transportSendBuffer_next h).2.2.1

/-- The chunk of a request in range stays in its page and in the device (41 R160). -/
theorem call_insideOnePage {q : Serializer} (hinv : SerializerInv q) (hphase : q.phase ≠ .idle) (hn : q.n ≠ 0) :
    InsideOnePage (call q.single (q.a.toNat, nextBytes q)) := by
  have hlength := nextBytes_length hinv hphase
  have hrange := hinv.in_range hphase
  have hpos := chunk_pos (a := q.a.toNat) (BitVec.toNat_pos_of_ne_zero hn)
  obtain ⟨hle, hpage⟩ := chunk_bounds q.a.toNat q.n.toNat
  simp only [Config.page, Config.cap] at hpage hrange
  cases q.single with
  | true => trivial
  | false =>
    simp only [call, InsideOnePage, hlength]
    omega

/-- What a transfer can do: nothing, complete the command, or send one chunk (41 R159). -/
theorem transferMove_cases {s t : State} (hinv : SerializerInv s.ser) (h : transferMove s = .next t) :
    t = s ∨ (s.ser.phase = .xfer ∧ s.ser.n = 0 ∧ t = completeCommand (clearSerializer s)) ∨
      (s.ser.phase = .xfer ∧ s.ser.n ≠ 0 ∧ t = sendChunk s) := by
  by_cases hphase : s.ser.phase = .xfer
  · refine .inr ?_
    by_cases hn : s.ser.n = 0
    · cases (runMove_transfer_done hphase hn).symm.trans h
      exact .inl ⟨hphase, hn, rfl⟩
    · have hstep : transferMove s = andThen (nextTransaction s) fun u => .next { u with ser := advance u.ser } := by
        simp only [transferMove, hphase, if_true, transferStep, hn, if_false]
      obtain ⟨u, hsend, -⟩ := andThen_eq_next (hstep.symm.trans h)
      cases (runMove_transfer_sends hphase hinv hn (free_of_nextTransaction hsend)).symm.trans h
      exact .inr ⟨hphase, hn, rfl⟩
  · have hwaits : transferMove s = .next s := if_neg hphase
    cases hwaits.symm.trans h
    exact .inl rfl

theorem transferMove_insideOnePage {s t : State} (hinv : SerializerInv s.ser) (h : transferMove s = .next t) :
    Adds InsideOnePage s t := by
  rcases transferMove_cases hinv h with rfl | ⟨-, -, rfl⟩ | ⟨hphase, hn, rfl⟩
  · exact .refl _ _
  · exact .one rfl trivial
  · exact .one rfl (call_insideOnePage hinv (by simp [hphase]) hn)

theorem runMove_insideOnePage {m : Move} {s t : State} (hinv : SerializerInv s.ser) (h : runMove m s = .next t) :
    Adds InsideOnePage s t := by
  cases m with
  | host => exact hostMove_insideOnePage h
  | transfer => exact transferMove_insideOnePage hinv h
  | _ => exact (runMove_quiet h nofun nofun).mono Quiet.insideOnePage

/-- Settles O57: only the sequencer issues buffer writes, and it sends its next chunk. -/
theorem everyBufferWriteInsideOnePage : Obligations.EveryBufferWriteInsideOnePage := by
  intro s t hinv hstep
  have hadds : Adds InsideOnePage s t := by
    rcases step_cases hstep with ⟨-, rfl⟩ | ⟨m, moves, -, hmove⟩
    · exact .refl _ _
    · exact runMove_insideOnePage (s := { s with schedule := moves }) hinv.serializer hmove
  obtain ⟨new, hnew, hinside⟩ := hadds
  exact ⟨new, hnew, fun a bytes ho => hinside _ ho⟩

end Sys2Proof.Machine
end

section
/-! SUPPORT AND PROOFS for the family 42_environment_interfaces.md: the transport's calls during the device's write
cycle, for which the spec gives the device no step (42 R186, 93 U6). -/

namespace Sys2Proof.Machine

theorem inRange_one {a : Nat} (ha : a < Config.cap) : inRange a 1 = true := (inRange_iff a 1).mpr (.inr ha)

section BusyDevice

variable {s : State} (hbusy : s.dev.busy = true)
include hbusy

/-! ### The transport's calls on a busy device -/

theorem transportPresent_busy : transportPresent s = .fault .deviceBusy := if_pos hbusy

theorem transportGet_busy {a : Nat} (ha : a < Config.cap) : transportGet a s = .fault .deviceBusy := by
  simp only [transportGet, inRange_one ha, hbusy, if_true]

theorem transportGetBuffer_busy {a n : Nat} (hr : inRange a n = true) :
    transportGetBuffer a n s = .fault .deviceBusy := by
  simp only [transportGetBuffer, hr, hbusy, if_true]

theorem transportSend_busy {a : Nat} (ha : a < Config.cap) (v : Byte) :
    transportSend a v s = .fault .deviceBusy := by
  simp only [transportSend, inRange_one ha, hbusy, if_true]

theorem transportSendBuffer_busy {a : Nat} {bytes : List Byte} (hne : bytes ≠ []) (ha : a < Config.cap) :
    transportSendBuffer a bytes s = .fault .deviceBusy := by
  simp [transportSendBuffer, hne, inRange_one ha, hbusy]

/-! ### The commands and the sequencer behind those calls -/

theorem exec_probe_busy : exec .probe s = .fault .deviceBusy := by
  simp only [exec, execProbe, transportPresent_busy hbusy, andThen_fault]

theorem exec_readByte_busy {a : BitVec 16} (ha : a.toNat < Config.cap) :
    exec (.readByte a) s = .fault .deviceBusy := by
  simp only [exec, execReadByte, transportGet_busy hbusy ha, andThen_fault]

theorem exec_readBuffer_busy {a n : BitVec 16} (hr : inRange a.toNat n.toNat = true) :
    exec (.readBuffer a n) s = .fault .deviceBusy := by
  simp only [exec, execReadBuffer, transportGetBuffer_busy hbusy hr, andThen_fault]

/-- Either call of the sequencer, `send` or `sendBuffer`, meets the busy device. -/
theorem nextTransaction_busy (ha : s.ser.a.toNat < Config.cap) (hne : nextBytes s.ser ≠ []) :
    nextTransaction s = .fault .deviceBusy := by
  cases hsingle : s.ser.single with
  | true =>
    obtain ⟨v, rest, hbytes⟩ := List.exists_cons_of_ne_nil hne
    simp only [nextTransaction, hsingle, if_true, hbytes, transportSend_busy hbusy ha]
  | false =>
    simp only [nextTransaction, hsingle, Bool.false_eq_true, if_false, transportSendBuffer_busy hbusy hne ha]

theorem runMove_transfer_busy (hphase : s.ser.phase = .xfer) (hn : s.ser.n ≠ 0) (ha : s.ser.a.toNat < Config.cap)
    (hne : nextBytes s.ser ≠ []) : runMove .transfer s = .fault .deviceBusy := by
  simp only [runMove, transferMove, hphase, if_true, transferStep, hn, if_false, nextTransaction_busy hbusy ha hne,
    andThen_fault]

end BusyDevice

/-- Settles O35: each transaction is in range, so the call gets past the range check and meets the busy device, and
its fault is the answer of the command or move that issued it. -/
theorem busyDeviceFaults : Obligations.BusyDeviceFaults := fun _ _ _ hbusy =>
  ⟨exec_probe_busy hbusy, exec_readByte_busy hbusy,
    fun hrange => exec_readBuffer_busy hbusy ((inRange_iff _ _).mpr hrange),
    runMove_transfer_busy hbusy⟩

end Sys2Proof.Machine
end

section
/-! SUPPORT AND PROOFS for the family 60_exceptions.md: the arbiter merges what is raised (60 R203, R207), serves one
pending event per entry in the order tick, sensor, byte received (60 R204, R208), and the two opaque handlers only end
(60 R206, R211). -/

namespace Sys2Proof.Machine

/-! ### The handlers the model does not open -/

theorem exec_sensorHandler (s : State) : exec .sensorHandler s = .next (leaveHandler s) := rfl

theorem exec_rxHandler (s : State) : exec .rxHandler s = .next (leaveHandler s) := rfl

/-! ### What the entry writes, one equation per branch of the priority -/

theorem enterHandler_pwm {s : State} (hpwm : s.arb.pendPwm = true) :
    enterHandler s = { s with arb := { s.arb with pendPwm := false, inService := true } } := if_pos hpwm

theorem enterHandler_sensor {s : State} (hpwm : s.arb.pendPwm = false) (hsensor : s.arb.pendSensor = true) :
    enterHandler s = { s with arb := { s.arb with pendSensor := false, inService := true } } := by
  simp only [enterHandler, hpwm, hsensor, Bool.false_eq_true, if_false, if_true]

theorem enterHandler_rx {s : State} (hpwm : s.arb.pendPwm = false) (hsensor : s.arb.pendSensor = false)
    (hrx : s.arb.pendRx = true) :
    enterHandler s = { s with arb := { s.arb with pendRx := false, inService := true } } := by
  simp only [enterHandler, hpwm, hsensor, hrx, Bool.false_eq_true, if_false, if_true]

/-! ### Which handler the entry runs, and in which state -/

theorem entryMove_servesTick {s : State} (hservice : s.arb.inService = false) (hpwm : s.arb.pendPwm = true) :
    entryMove s = exec .onTick { s with arb := { s.arb with pendPwm := false, inService := true } } := by
  rw [entryMove_onTick hservice hpwm, enterHandler_pwm hpwm]

theorem entryMove_servesSensor {s : State} (hservice : s.arb.inService = false) (hpwm : s.arb.pendPwm = false)
    (hsensor : s.arb.pendSensor = true) :
    entryMove s = exec .sensorHandler { s with arb := { s.arb with pendSensor := false, inService := true } } := by
  rw [← enterHandler_sensor hpwm hsensor]
  simp [entryMove, hservice, decodeEvents_pending, hpwm, hsensor]

theorem entryMove_servesRx {s : State} (hservice : s.arb.inService = false) (hpwm : s.arb.pendPwm = false)
    (hsensor : s.arb.pendSensor = false) (hrx : s.arb.pendRx = true) :
    entryMove s = exec .rxHandler { s with arb := { s.arb with pendRx := false, inService := true } } := by
  rw [← enterHandler_rx hpwm hsensor hrx]
  simp [entryMove, hservice, decodeEvents_pending, hpwm, hsensor, hrx]

/-- While a handler runs there is no entry, whatever is pending. -/
theorem entryMove_inService {s : State} (hservice : s.arb.inService = true) : entryMove s = .next s := if_pos hservice

theorem entryMove_nothingPending {s : State} (hpwm : s.arb.pendPwm = false) (hsensor : s.arb.pendSensor = false)
    (hrx : s.arb.pendRx = false) : entryMove s = .next s := by
  simp [entryMove, decodeEvents_pending, hpwm, hsensor, hrx]

/-! ### The obligations -/

/-- Settles O8: the scheduled move is `entryMove` on the state without that move; each clause is one branch of it. -/
theorem entryServesOneEventByPriority : Obligations.EntryServesOneEventByPriority := by
  intro s moves hsched
  have hstep : step s = entryMove { s with schedule := moves } := step_cons hsched
  rw [hstep]
  refine ⟨fun hservice hpwm => ?tick, fun hservice hpwm hsensor => ?sensor,
    fun hservice hpwm hsensor hrx => ?byteReceived, ?disabled⟩
  case tick => exact entryMove_servesTick hservice hpwm
  case sensor => exact entryMove_servesSensor hservice hpwm hsensor
  case byteReceived => exact entryMove_servesRx hservice hpwm hsensor hrx
  case disabled =>
    rintro (hservice | ⟨hpwm, hsensor, hrx⟩)
    · exact entryMove_inService hservice
    · exact entryMove_nothingPending hpwm hsensor hrx

/-- Settles O9: the scheduled move is `raiseEvents`, which or-s each line into its flag. -/
theorem raisedEventsMerge : Obligations.RaisedEventsMerge := fun _ _ _ hsched => step_cons hsched

/-- Settles O29: both handlers are nothing but the handler's end. -/
theorem opaqueHandlersChangeNothing : Obligations.OpaqueHandlersChangeNothing := fun s =>
  ⟨exec_sensorHandler s, exec_rxHandler s⟩

end Sys2Proof.Machine
end

section
/-! SUPPORT AND PROOFS for the family 70_reset_and_hazards.md, first part: what the reset step writes, with the device
in its write cycle or not (70 R231 to R233), the agents that may not step (70 R241), a ramp right after a SetImmediate
(70 R244) and a tick in a quiescent state (70 R251). -/

namespace Sys2Proof.Machine

/-! ### The reset step -/

/-- Settles O52: no command, no ramp and no event is there, and the memory lists nothing. -/
theorem resetMeetsInvariants : Obligations.ResetMeetsInvariants where
  engine := engineInv_of_idle rfl rfl ⟨rfl, Nat.zero_le _⟩
  out_cur := rfl
  no_service := rfl
  serializer := serializerInv_of_idle rfl
  port := ⟨by decide, fun _ => rfl, absurd rfl⟩
  device := ⟨rfl, by decide, nofun⟩

theorem step_reset {s : State} {moves : List Move} (hsched : s.schedule = .reset :: moves) :
    step s = .next (resetStep { s with schedule := moves }) := step_cons hsched

/-- Outside a write cycle the reset step writes its registers and nothing else (70 R233). -/
theorem resetStep_of_free {s : State} (hfree : s.dev.busy = false) : resetStep s = resetRegisters s := by
  simp only [resetStep, hfree, Bool.false_eq_true, if_false]

/-- A write cycle that is cut leaves its page open, then the registers are written (70 R232). -/
theorem resetStep_of_busy {s : State} (hbusy : s.dev.busy = true) :
    resetStep s = resetRegisters (scramblePage s) := by
  simp only [resetStep, hbusy, if_true]

/-- Settles O53: the registers and no more. -/
theorem resetWritesRegisters : Obligations.ResetWritesRegisters := by
  intro s moves hsched hfree
  refine ⟨(clearSerializer { s with schedule := moves }).ser, rfl, ?_⟩
  rw [step_reset hsched, resetStep_of_free (s := { s with schedule := moves }) hfree, resetRegisters_eq]
  rfl

/-- Storing bytes from a page's first address on keeps the canonical form and every byte outside that page. -/
theorem storeFrom_pageStart {m : Memory} {page : Nat} (bytes : List Byte) (hwf : m.wf = true) (hpage : page < 512) :
    (Memory.storeFrom m (page * Config.page) 0 bytes).wf = true ∧
      ∀ b, b / 64 ≠ page → Memory.read (Memory.storeFrom m (page * Config.page) 0 bytes) b = Memory.read m b := by
  have haddress : page * Config.page < Config.cap := by
    simp only [Config.page, Config.cap]
    omega
  have hsame : page * Config.page / Config.page = page := Nat.mul_div_cancel _ (by decide)
  exact ⟨storeFrom_wf hwf haddress, fun b hb => storeFrom_outside_page hwf haddress (by rwa [hsame])⟩

/-- What a cut write cycle leaves open: the bytes of its page, at the cost of one draw each (70 R232, log 12). -/
theorem scramblePage_eq {s : State} (hwf : s.dev.mem.wf = true) (hpage : s.dev.page < 512) :
    ∃ m : Memory, m.wf = true ∧ (∀ b, b / 64 ≠ s.dev.page → Memory.read m b = Memory.read s.dev.mem b) ∧
      scramblePage s = { s with dev := { s.dev with mem := m }, draws := s.draws + 64 } := by
  obtain ⟨hwf', hread⟩ := storeFrom_pageStart (freeBytes s.draws Config.page) hwf hpage
  exact ⟨_, hwf', hread, rfl⟩

/-- Settles O54: the registers are those of any reset; the memory is the scrambled page's. -/
theorem resetCutsOnlyOnePage : Obligations.ResetCutsOnlyOnePage := by
  intro s moves hsched hbusy hwf hpage
  obtain ⟨m, hwf', hread, hscramble⟩ := scramblePage_eq (s := { s with schedule := moves }) hwf hpage
  refine ⟨(clearSerializer { s with draws := s.draws + 64 }).ser, m, rfl, hwf', hread, ?_⟩
  rw [step_reset hsched, resetStep_of_busy (s := { s with schedule := moves }) hbusy, hscramble, resetRegisters_eq]
  rfl

/-! ### The agents that may not step -/

/-- A host that is blocked, or has nothing to issue, makes no move (30 R91, R97). -/
theorem hostMove_waits {s : State} (h : s.port.cmdReady = false ∨ s.hostQueue = []) : hostMove s = .next s := by
  unfold hostMove
  split
  · rfl
  · next hqueue =>
    have hready : s.port.cmdReady = false := h.resolve_right (by simp [hqueue])
    rw [if_neg (by simp [hready])]

/-- Phase B waits for a `SetImmediate` whose tick has come (40 R122). -/
theorem applyImmediateStep_waits {s : State} (h : ∀ w, s.port.immWait = some w → w.ticked = false) :
    applyImmediateStep s = s := by
  unfold applyImmediateStep
  split
  · next w hwait => rw [if_neg (by simp [h w hwait])]
  · rfl

/-- Settles O10: each disabled move answers the state it finds, the one without that move. -/
theorem disabledAgentsChangeNothing : Obligations.DisabledAgentsChangeNothing := by
  intro s m moves hsched hdisabled
  rw [step_cons hsched]
  rcases hdisabled with ⟨rfl, hblocked⟩ | ⟨rfl, hphase⟩ | ⟨rfl, hphase⟩ | ⟨rfl, hphase⟩ | ⟨rfl, hwait⟩
  case inl => exact hostMove_waits hblocked
  case inr.inl => exact if_neg hphase
  case inr.inr.inl => exact if_neg (mt (settling_iff _).mp hphase)
  case inr.inr.inr.inl => exact if_pos ((settling_iff _).mpr hphase)
  case inr.inr.inr.inr => exact congrArg Host.Outcome.next (applyImmediateStep_waits hwait)

/-! ### A ramp right after a SetImmediate -/

/-- Settles O27: the `SetImmediate` leaves the engine idle at the immediate values, where a `BeginRamp` is accepted. -/
theorem rampAfterSetImmediateAccepted : Obligations.RampAfterSetImmediateAccepted := by
  intro d1 d2 d3 d4 t1 t2 t3 t4 f h s hmode
  exact ⟨_, _, exec_setImmediate_atomic hmode d1 d2 d3 d4, exec_beginRamp_idle rfl t1 t2 t3 t4 f h,
    rfl, rfl, rfl, rfl, rfl, widenFade_toNat f, scaleHold_toNat h⟩

/-! ### A tick in a quiescent state -/

/-- A quiescent state by its parts (70 R251). -/
theorem quiescent_iff (s : State) :
    quiescent s = true ↔ s.engine.tag = .idle ∧ s.ser.phase = .idle ∧ s.port.cmdReady = true ∧ pending s = 0 := by
  simp [quiescent, and_assoc]

/-- The tick's flag is one of those that make the pending vector (10 R31). -/
theorem pendPwm_of_pending_zero {s : State} (h : pending s = 0) : s.arb.pendPwm = false := by
  rw [← pending_pwm, h]
  rfl

/-- The entry takes back the flag that the tick raised (60 R203, R204). -/
theorem runMoves_tick {s : State} (hservice : s.arb.inService = false) (hpwm : s.arb.pendPwm = false) :
    runMoves [.raise 1, .entry] s = exec .onTick { s with arb := { s.arb with inService := true } } := by
  have hraised : (raiseEvents 1 s).arb = { s.arb with pendPwm := true } := by simp
  have hentry : runMove .entry (raiseEvents 1 s) =
      exec .onTick { s with arb := { s.arb with pendPwm := false, inService := true } } := by
    refine (entryMove_servesTick (by rw [hraised]; exact hservice) (by rw [hraised])).trans ?_
    rw [hraised]
    rfl
  rw [← hpwm] at hentry
  simp only [runMoves, runMove, andThen_next]
  exact congrArg (andThen · Host.Outcome.next) hentry

/-- With the engine at rest and nothing waiting for a tick, the handler only ends (40 R129). -/
theorem exec_onTick_idle {s : State} (htag : s.engine.tag = .idle) (hcnt : s.engine.cnt = 0)
    (hwait : s.port.immWait = none) : exec .onTick s = .next (leaveHandler s) := by
  have hbody : tickBody s = s := by rw [tickBody_silent (by simp [htag]), tickEngine_rests htag hcnt]
  have hnote : noteTick s = s := by
    rw [noteTick, hwait, Option.map_none, ← hwait]
  rw [exec_onTick, hbody, hnote]

/-- Settles O60: the tick finds an engine at rest, so what is left of it is an entry and its end. -/
theorem quiescentTickIsNoOp : Obligations.QuiescentTickIsNoOp := by
  intro s hinv hquiescent
  obtain ⟨hidle, -, hready, hpending⟩ := (quiescent_iff s).mp hquiescent
  have hcnt := hinv.engine.idle_count hidle
  obtain ⟨-, hwait⟩ := hinv.port.ready_iff.mp hready
  have hservice := hinv.no_service
  rw [runMoves_tick hservice (pendPwm_of_pending_zero hpending), 
    exec_onTick_idle (s := { s with arb := { s.arb with inService := true } }) hidle hcnt hwait]
  have harb : { s.arb with inService := false } = s.arb := by rw [← hservice]
  simp only [leaveHandler, harb]

end Sys2Proof.Machine
end

section
/-! SUPPORT AND PROOFS for the family 70_reset_and_hazards.md, second part: the weak fairness of 70 R241. A ramp and a
write command each have a measure, 0 exactly when they are over, that no step of the machine raises while they run; what
the fair agents do lowers it. -/

namespace Sys2Proof.Machine

/-! ### Runs -/

/-- A measure that never rises before it is 0, and of which no value but 0 stays for ever, comes to be 0. -/
theorem exists_eq_zero_of_descent {μ : Nat → Nat} {n : Nat} (hle : ∀ m, n ≤ m → μ m ≠ 0 → μ (m + 1) ≤ μ m)
    (hlt : ∀ m, n ≤ m → ∃ k, m ≤ k ∧ (μ k ≠ 0 → μ (k + 1) < μ k)) : ∃ m, n ≤ m ∧ μ m = 0 := by
  by_contra! hnever
  have hanti : Antitone fun j => μ (n + j) :=
    antitone_nat_of_succ_le fun j => hle _ (Nat.le_add_right n j) (hnever _ (Nat.le_add_right n j))
  obtain ⟨j, hconst⟩ := WellFoundedLT.antitone_chain_condition hanti
  obtain ⟨k, hk, hdrop⟩ := hlt (n + j) (Nat.le_add_right n j)
  have hstays : μ k = μ (k + 1) := by
    have hhere := hconst (k - n) (by omega)
    have hnext := hconst (k + 1 - n) (by omega)
    rw [hhere, Nat.add_sub_cancel' (by omega), Nat.add_sub_cancel' (by omega)] at hnext
    exact hnext
  have hlower := hdrop (hnever k (by omega))
  omega

/-- The fed state as the agent that moves finds it: its move is off the schedule. -/
def atMove (i : Input) (s : State) : State := { s with schedule := [], hostQueue := s.hostQueue ++ i.offered }

/-- No invariant speaks of the schedule or of the host's queue. -/
theorem Inv.of_inputs {s : State} (h : Inv s) (moves : List Move) (queue : List HostCommand) :
    Inv { s with schedule := moves, hostQueue := queue } :=
  ⟨h.engine, h.out_cur, h.no_service, h.serializer, ⟨h.port.ready_iff, h.port.one_command, h.port.wait_idle⟩,
    ⟨h.device.mem_wf, h.device.page_exists, h.device.settle_busy⟩⟩

section Run

variable {inputs : Nat → Input} {run : Nat → State} (hrun : IsRun inputs run)
include hrun

/-- A step of a run is its input's move. -/
theorem IsRun.runMove (k : Nat) : runMove (inputs k).move (atMove (inputs k) (run k)) = .next (run (k + 1)) := hrun k

theorem IsRun.inv {n : Nat} (hinv : Inv (run n)) : ∀ m, n ≤ m → Inv (run m) :=
  Nat.le_induction hinv fun k _ hk => stepKeepsInvariants _ _ (hk.of_inputs _ _) (hrun k)

end Run

/-! ### The tick is served again and again -/

/-- A command leaves the arbiter alone (60 R203, R204). -/
theorem exec_command_arb {i : Instr} (hi : i ≠ .onTick ∧ i ≠ .sensorHandler ∧ i ≠ .rxHandler) {s t : State}
    (h : exec i s = .next t) : t.arb = s.arb := by
  obtain ⟨htick, hsensor, hrx⟩ := hi
  have hserializer : isSerializerOp i = true → t.arb = s.arb := fun hop =>
    (serializer_keepsRamp (fun e o b => exec_serializerOp_replaceRamp e o b hop) h).2.2
  cases i with
  | setImmediate d1 d2 d3 d4 =>
    cases hmode : s.setImmMode with
    | atomic => rw [exec_setImmediate_atomic hmode] at h; cases h; rfl
    | twoPhase => rw [exec_setImmediate_twoPhase hmode] at h; cases h; rfl
  | beginRamp t1 t2 t3 t4 f hold =>
    by_cases hidle : s.engine.tag = .idle
    · rw [exec_beginRamp_idle hidle] at h; cases h; rfl
    · rw [exec_beginRamp_busy hidle] at h; cases h; rfl
  | isBusy => cases h; rfl
  | onTick => exact absurd rfl htick
  | sensorHandler => exact absurd rfl hsensor
  | rxHandler => exact absurd rfl hrx
  | probe | capacity | readByte | readBuffer | writeByte | writeBuffer => exact hserializer rfl

theorem applyImmediateStep_arb (s : State) : (applyImmediateStep s).arb = s.arb := by
  unfold applyImmediateStep
  split
  · split <;> rfl
  · rfl

/-- A pending tick waits for the arbiter, unless a reset drops it (10 R31, 60 R207, 70 R231). -/
theorem runMove_keepsTick {m : Move} {s t : State} (hentry : m ≠ .entry) (hreset : m ≠ .reset)
    (h : runMove m s = .next t) (hpwm : s.arb.pendPwm = true) : t.arb.pendPwm = true := by
  have hserializer : isSerializerMove m = true → t.arb.pendPwm = true := fun hm => by
    rw [(serializer_keepsRamp (fun e o b => runMove_serializerMove_replaceRamp e o b hm) h).2.2]
    exact hpwm
  cases m with
  | host =>
    rcases hostMove_cases h with rfl | ⟨c, rest, i, left, -, -, hdecode, hexec⟩
    · exact hpwm
    · rw [exec_command_arb (decodeCommand_not_handler hdecode) hexec]
      exact hpwm
  | raise ev => cases h; simp [hpwm]
  | applyImmediate => cases h; rw [applyImmediateStep_arb]; exact hpwm
  | entry => exact absurd rfl hentry
  | reset => exact absurd rfl hreset
  | transfer | settleDone | deviceDone | setPresent => exact hserializer rfl

/-- A raised tick is pending. -/
theorem runMove_raisesTick {m : Move} {s t : State} (hm : raisesTick m = true) (h : runMove m s = .next t) :
    t.arb.pendPwm = true := by
  cases m with
  | raise ev =>
    cases h
    have hev : ev.getLsbD 0 = true := hm
    simp [hev]
  | _ => cases hm

theorem canEnter_of_pendPwm {s : State} (hservice : s.arb.inService = false) (hpwm : s.arb.pendPwm = true) :
    canEnter s = true := by
  have hpending : pending s ≠ 0 := fun h => by simp [pendPwm_of_pending_zero h] at hpwm
  simpa [canEnter, hservice] using hpending

/-- With the tick source and the arbiter fair, every point of a run is followed by an entry that serves a tick, or by a
reset (70 R241). -/
theorem tick_served_or_reset {inputs : Nat → Input} {run : Nat → State} {n : Nat} (hrun : IsRun inputs run)
    (htick : TickSourceFair inputs run) (harbiter : ArbiterFair inputs run)
    (hservice : ∀ m, n ≤ m → (run m).arb.inService = false) :
    ∃ k, n ≤ k ∧ ((inputs k).move = .reset ∨ (inputs k).move = .entry ∧ (run k).arb.pendPwm = true) := by
  by_contra! hnever
  obtain ⟨a, ha, hraise⟩ := htick n fun _ _ => rfl
  have hpwm : ∀ k, a + 1 ≤ k → (run k).arb.pendPwm = true := by
    refine Nat.le_induction (runMove_raisesTick hraise (hrun.runMove a)) fun k hk hpwm => ?_
    obtain ⟨hreset, hentry⟩ := hnever k (by omega)
    exact runMove_keepsTick (mt hentry (by simp [hpwm])) hreset (hrun.runMove k) hpwm
  obtain ⟨k, hk, hmove⟩ := harbiter (a + 1) fun k hk => canEnter_of_pendPwm (hservice k (by omega)) (hpwm k hk)
  exact (hnever k (by omega)).2 (by simpa using hmove) (hpwm k hk)

/-! ### A ramp ends -/

/-- A bound on the ticks a ramp still takes, 0 exactly in `Idle`: a count of 20 bits may run for each unit of the largest
distance and for the hold, and one tick ends it (40 R125). -/
def ticksLeft (e : Engine) : Nat :=
  match e.tag with
  | .idle => 0
  | .holding => e.cnt.toNat + 1
  | .fading => 2 ^ 20 * (maxDistance e.cur e.tgt + 1) + e.cnt.toNat + 1

theorem ticksLeft_eq_zero_iff (e : Engine) : ticksLeft e = 0 ↔ e.tag = .idle := by
  unfold ticksLeft
  split <;> simp [*]

theorem distance_moveToward (c t : Byte) : distance (moveToward c t) t = distance c t - 1 := by
  unfold distance
  rcases lt_trichotomy c.toNat t.toNat with hlt | heq | hgt
  · rw [moveToward_up hlt]
    omega
  · rw [BitVec.eq_of_toNat_eq heq, moveToward_self]
    omega
  · rw [moveToward_down hgt]
    omega

/-- A fade step brings the farthest channel one unit nearer (40 R127, R134). -/
theorem maxDistance_moveAll_le (c t : Duties) : maxDistance (moveAll c t) t ≤ maxDistance c t - 1 := by
  refine (maxDistance_le_iff _ _ _).mpr fun ch => ?_
  rw [duty_moveAll, distance_moveToward]
  exact Nat.sub_le_sub_right ((maxDistance_le_iff _ _ _).mp le_rfl ch) 1

/-- Every tick of a running ramp brings its end nearer. -/
theorem ticksLeft_tickEngine {e : Engine} (hbusy : e.tag ≠ .idle) : ticksLeft (tickEngine e) < ticksLeft e := by
  rcases tickEngine_cases e with
    ⟨htag, -, -, heq⟩ | ⟨htag, -, hmoved, heq⟩ | ⟨htag, -, heq⟩ | ⟨hwait, heq⟩
  case inl =>
    have hcnt := (countDown e.hold).isLt
    simp only [heq, ticksLeft, htag]
    omega
  case inr.inl =>
    have hcnt := (countDown (widenFade e.fade)).isLt
    have hnear := maxDistance_moveAll_le e.cur e.tgt
    have hfar : ¬maxDistance e.cur e.tgt ≤ 1 := mt (movedBy_zero e.cur e.tgt).move.eq_goal_iff.mpr hmoved
    simp only [heq, ticksLeft, htag]
    omega
  case inr.inr.inl =>
    simp only [heq, ticksLeft, htag]
    omega
  case inr.inr.inr =>
    have hcnt := BitVec.toNat_pos_of_ne_zero (hwait.resolve_left hbusy)
    have hdown := countDown_toNat e.cnt
    cases htag : e.tag with
    | idle => exact absurd htag hbusy
    | holding =>
      simp only [heq, ticksLeft, htag]
      omega
    | fading =>
      simp only [heq, ticksLeft, htag]
      omega

/-- While a ramp runs, no step of any agent puts its end off: a new `BeginRamp` is dropped (40 R123). -/
theorem EngineStep.ticksLeft_le {s : State} {e : Engine} (hstep : EngineStep s e) (hinv : Inv s)
    (hbusy : s.engine.tag ≠ .idle) : ticksLeft e ≤ ticksLeft s.engine := by
  cases hstep with
  | kept => exact le_rfl
  | accepted _ hidle => exact absurd hidle hbusy
  | cancelled | reset => exact Nat.zero_le _
  | ticked => exact (ticksLeft_tickEngine hbusy).le
  | applied hwait => exact absurd (hinv.port.wait_idle hwait) hbusy

/-- An entry with the tick pending is a tick of the engine. -/
theorem entryMove_engine {s t : State} (hservice : s.arb.inService = false) (hpwm : s.arb.pendPwm = true)
    (h : entryMove s = .next t) : t.engine = tickEngine s.engine := by
  rw [entryMove_onTick hservice hpwm, exec_onTick] at h
  cases h
  simp

/-- A tick that is served brings the end nearer, a reset is the end. -/
theorem runMove_lowers_ticksLeft {m : Move} {s t : State} (hservice : s.arb.inService = false)
    (hmove : m = .reset ∨ m = .entry ∧ s.arb.pendPwm = true) (h : runMove m s = .next t)
    (hbusy : s.engine.tag ≠ .idle) : ticksLeft t.engine < ticksLeft s.engine := by
  rcases hmove with rfl | ⟨rfl, hpwm⟩
  · cases h
    rw [resetStep_engine]
    exact Nat.pos_of_ne_zero (mt (ticksLeft_eq_zero_iff _).mp hbusy)
  · rw [entryMove_engine hservice hpwm h]
    exact ticksLeft_tickEngine hbusy

/-- Settles O24: no step raises `ticksLeft` while the ramp runs, and a step that lowers it always comes. -/
theorem rampEndsInFairRuns : Obligations.RampEndsInFairRuns := by
  intro inputs run n hrun htick harbiter hinv
  have hinvs := hrun.inv hinv
  have hservice := fun k hk => (hinvs k hk).no_service
  have hbusy_of : ∀ k, ticksLeft (run k).engine ≠ 0 → (run k).engine.tag ≠ .idle := fun _ =>
    mt (ticksLeft_eq_zero_iff _).mpr
  obtain ⟨m, hm, hzero⟩ : ∃ m, n ≤ m ∧ ticksLeft (run m).engine = 0 := by
    refine exists_eq_zero_of_descent (fun m hm hbusy => ?_) fun m hm => ?_
    · exact (engineStep (hrun m)).ticksLeft_le ((hinvs m hm).of_inputs _ _) (hbusy_of m hbusy)
    · obtain ⟨k, hk, hmove⟩ := tick_served_or_reset hrun htick harbiter fun k hk => hservice k (hm.trans hk)
      exact ⟨k, hk, fun hbusy => runMove_lowers_ticksLeft (s := atMove (inputs k) (run k)) (hservice k (hm.trans hk))
        hmove (hrun.runMove k) (hbusy_of k hbusy)⟩
  exact ⟨m, hm, (ticksLeft_eq_zero_iff _).mp hzero⟩

/-! ### A write command ends -/

/-- The moves of the sequencer and of the settle timer that a write command still takes, at the most: two for each byte
left and one to complete, and one more while a settle runs (41 R159). -/
def movesLeft (q : Serializer) : Nat :=
  match q.phase with
  | .idle => 0
  | .xfer => 2 * q.n.toNat + 1
  | .settle => 2 * q.n.toNat + 2

theorem movesLeft_eq_zero_iff (q : Serializer) : movesLeft q = 0 ↔ q.phase = .idle := by
  unfold movesLeft
  split <;> simp [*]

/-- The move that the phase waits for: a transfer or the settle's end (41 R159). -/
def IsAwaited (q : Serializer) (m : Move) : Prop :=
  q.phase = .xfer ∧ m = .transfer ∨ q.phase = .settle ∧ m = .settleDone

/-- What a move makes of a write command in progress (41 R159, 70 R231). -/
inductive WriteStep (s : State) (m : Move) (t : State) : Prop
  | waits (hother : ¬IsAwaited s.ser m) (hser : t.ser = s.ser)
  | sends (hphase : s.ser.phase = .xfer) (hn : s.ser.n ≠ 0) (hser : t.ser = advance s.ser)
  | settles (hphase : s.ser.phase = .settle) (hser : t.ser = { s.ser with phase := .xfer })
  | completes (ht : t = completeCommand (clearSerializer s))
  | abandoned (hm : m = .reset) (ht : t = resetStep s)

/-- The ramp engine's side and its moves leave the serializer alone (10 R46). -/
theorem rampMove_ser {m : Move} (hm : isRampMove m = true) {s t : State} (h : runMove m s = .next t) :
    t.ser = s.ser := by
  obtain ⟨u, hu, hser, -⟩ :=
    ramp_independent (runMove_rampMove_next hm s) (fun q d => runMove_rampMove_replaceEeprom q d hm) s.ser s.dev
  cases hu.symm.trans h
  exact hser

/-- A transfer with bytes left advances the registers (41 R159). -/
theorem transferMove_ser {s t : State} (hphase : s.ser.phase = .xfer) (hn : s.ser.n ≠ 0)
    (h : transferMove s = .next t) : t.ser = advance s.ser := by
  simp only [transferMove, hphase, if_true, transferStep, hn, if_false] at h
  obtain ⟨u, hsend, hadvance⟩ := andThen_eq_next h
  obtain ⟨-, o, k, stored, rfl⟩ := nextTransaction_next hsend
  cases hadvance
  rfl

/-- With a write command in progress the host is blocked (30 R91), so only the sequencer, the settle timer and the reset
act on the serializer. -/
theorem writeStep {m : Move} {s t : State} (hinv : Inv s) (hbusy : s.ser.phase ≠ .idle)
    (h : runMove m s = .next t) : WriteStep s m t := by
  have hramp : isRampMove m = true → WriteStep s m t := fun hm =>
    .waits (by rintro (⟨-, rfl⟩ | ⟨-, rfl⟩) <;> cases hm) (rampMove_ser hm h)
  cases m with
  | host =>
    have hready : s.port.cmdReady = false :=
      Bool.eq_false_iff.mpr fun hready => hbusy (hinv.port.ready_iff.mp hready).1
    exact .waits (by simp [IsAwaited]) (by rw [hostMove_blocked hready h])
  | transfer =>
    by_cases hphase : s.ser.phase = .xfer
    · by_cases hn : s.ser.n = 0
      · cases (runMove_transfer_done hphase hn).symm.trans h
        exact .completes rfl
      · exact .sends hphase hn (transferMove_ser hphase hn h)
    · cases (if_neg hphase : transferMove s = .next s).symm.trans h
      exact .waits (by simp [IsAwaited, hphase]) rfl
  | settleDone =>
    by_cases hphase : s.ser.phase = .settle
    · cases (runMove_settleDone hphase).symm.trans h
      exact .settles hphase rfl
    · cases (if_neg (mt (settling_iff s).mp hphase) : settleMove s = .next s).symm.trans h
      exact .waits (by simp [IsAwaited, hphase]) rfl
  | deviceDone =>
    have hser : t.ser = s.ser := by
      simp only [runMove, deviceMove] at h
      split at h <;> cases h <;> rfl
    exact .waits (by simp [IsAwaited]) hser
  | setPresent b => cases h; exact .waits (by simp [IsAwaited]) rfl
  | reset => cases h; exact .abandoned rfl rfl
  | raise | entry | applyImmediate => exact hramp rfl

/-- A move that waits leaves the command as it is, any other brings its end nearer. -/
theorem WriteStep.waits_or_movesLeft_lt {s t : State} {m : Move} (h : WriteStep s m t) (hinv : SerializerInv s.ser)
    (hbusy : s.ser.phase ≠ .idle) :
    ¬IsAwaited s.ser m ∧ t.ser = s.ser ∨ movesLeft t.ser < movesLeft s.ser := by
  have hpos : 0 < movesLeft s.ser := Nat.pos_of_ne_zero (mt (movesLeft_eq_zero_iff _).mp hbusy)
  cases h with
  | waits hother hser => exact .inl ⟨hother, hser⟩
  | sends hphase hn hser =>
    have hchunk := chunk_pos (a := s.ser.a.toNat) (BitVec.toNat_pos_of_ne_zero hn)
    obtain ⟨-, -, hleft⟩ := hinv.advance_toNat hbusy
    have hsettle : (advance s.ser).phase = .settle := rfl
    refine .inr ?_
    simp only [hser, movesLeft, hphase, hsettle]
    omega
  | settles hphase hser =>
    refine .inr ?_
    simp only [hser, movesLeft, hphase]
    omega
  | completes ht =>
    rw [ht]
    exact .inr hpos
  | abandoned _ ht =>
    rw [ht, (movesLeft_eq_zero_iff _).mpr (resetStep_phase s)]
    exact .inr hpos

/-- The command ends in its completion or in a reset, and either frees the port (10 R30, 70 R231); the completion
answers `0x0000` (30 R98). -/
theorem WriteStep.ends {s t : State} {m : Move} (h : WriteStep s m t) (hbusy : s.ser.phase ≠ .idle)
    (hidle : t.ser.phase = .idle) :
    t.port.cmdReady = true ∧
      (m ≠ .reset → t.port.rsp = 0 ∧ t.port.rdata = [] ∧ ∃ older, t.history = .response 0 [] :: older) := by
  cases h with
  | waits _ hser => exact absurd (hser ▸ hidle) hbusy
  | sends _ _ hser => simp [hser, advance] at hidle
  | settles _ hser => simp [hser] at hidle
  | completes ht =>
    rw [ht]
    exact ⟨rfl, fun _ => ⟨rfl, rfl, _, rfl⟩⟩
  | abandoned hm ht =>
    rw [ht, resetStep_port]
    exact ⟨rfl, absurd hm⟩

section FairWrites

variable {inputs : Nat → Input} {run : Nat → State} {n : Nat} (hrun : IsRun inputs run)
  (hsettle : SettleTimerFair inputs run) (hsequencer : SequencerFair inputs run) (hinv : Inv (run n))

include hsettle hsequencer in
/-- Of the settle timer and the sequencer one is able to step as long as the serializer stands where it is, so it does
(70 R241). -/
theorem awaited_move_comes (hbusy : (run n).ser.phase ≠ .idle) (hconst : ∀ k, n ≤ k → (run k).ser = (run n).ser) :
    ∃ k, n ≤ k ∧ IsAwaited (run k).ser (inputs k).move := by
  cases hphase : (run n).ser.phase with
  | idle => exact absurd hphase hbusy
  | xfer =>
    obtain ⟨k, hk, hmove⟩ := hsequencer n fun k hk => by simp [canTransfer, hconst k hk, hphase]
    exact ⟨k, hk, .inl ⟨by rw [hconst k hk, hphase], by simpa using hmove⟩⟩
  | settle =>
    obtain ⟨k, hk, hmove⟩ := hsettle n fun k hk => by simp [settling, hconst k hk, hphase]
    exact ⟨k, hk, .inr ⟨by rw [hconst k hk, hphase], by simpa using hmove⟩⟩

include hrun hinv

theorem IsRun.writeStep {k : Nat} (hk : n ≤ k) (hbusy : (run k).ser.phase ≠ .idle) :
    WriteStep (atMove (inputs k) (run k)) (inputs k).move (run (k + 1)) :=
  Machine.writeStep ((hrun.inv hinv k hk).of_inputs _ _) hbusy (hrun.runMove k)

theorem IsRun.waits_or_movesLeft_lt {k : Nat} (hk : n ≤ k) (hbusy : (run k).ser.phase ≠ .idle) :
    ¬IsAwaited (run k).ser (inputs k).move ∧ (run (k + 1)).ser = (run k).ser ∨
      movesLeft (run (k + 1)).ser < movesLeft (run k).ser :=
  (hrun.writeStep hinv hk hbusy).waits_or_movesLeft_lt (hrun.inv hinv k hk).serializer hbusy

include hsettle hsequencer

/-- At some point the command is over, or the serializer has moved on. -/
theorem movesLeft_falls : ∃ k, n ≤ k ∧ (movesLeft (run k).ser ≠ 0 →
    movesLeft (run (k + 1)).ser < movesLeft (run k).ser) := by
  by_contra! hnever
  have hbusy : ∀ k, n ≤ k → (run k).ser.phase ≠ .idle := fun k hk =>
    mt (movesLeft_eq_zero_iff _).mpr (hnever k hk).1
  have hwaits : ∀ k, n ≤ k → ¬IsAwaited (run k).ser (inputs k).move ∧ (run (k + 1)).ser = (run k).ser := fun k hk =>
    (hrun.waits_or_movesLeft_lt hinv hk (hbusy k hk)).resolve_right (hnever k hk).2.not_gt
  have hconst : ∀ k, n ≤ k → (run k).ser = (run n).ser :=
    Nat.le_induction rfl fun k hk heq => (hwaits k hk).2.trans heq
  obtain ⟨k, hk, hawaited⟩ := awaited_move_comes hsettle hsequencer (hbusy n le_rfl) hconst
  exact (hwaits k hk).1 hawaited

theorem serializer_becomes_idle : ∃ m, n ≤ m ∧ (run m).ser.phase = .idle := by
  obtain ⟨m, hm, hzero⟩ : ∃ m, n ≤ m ∧ movesLeft (run m).ser = 0 := by
    refine exists_eq_zero_of_descent (fun m hm hleft => ?_) fun m hm =>
      movesLeft_falls hrun hsettle hsequencer (hrun.inv hinv m hm)
    rcases hrun.waits_or_movesLeft_lt hinv hm (mt (movesLeft_eq_zero_iff _).mpr hleft) with ⟨-, hser⟩ | hlt
    · rw [hser]
    · exact hlt.le
  exact ⟨m, hm, (movesLeft_eq_zero_iff _).mp hzero⟩

end FairWrites

/-- Settles O45: the serializer becomes idle, and the step with which it does is the completion or a reset. -/
theorem writeCompletesInFairRuns : Obligations.WriteCompletesInFairRuns := by
  intro inputs run n hrun hsettle hsequencer hinv hbusy
  obtain ⟨m, hm, hidle⟩ := serializer_becomes_idle hrun hsettle hsequencer hinv
  obtain ⟨k, hk, hbefore, hafter⟩ :
      ∃ k, n ≤ k ∧ (run k).ser.phase ≠ .idle ∧ (run (k + 1)).ser.phase = .idle := by
    by_contra! hnever
    exact Nat.le_induction hbusy hnever m hm hidle
  obtain ⟨hready, hanswer⟩ := (hrun.writeStep hinv hk hbefore).ends hbefore hafter
  exact ⟨k + 1, by omega, hafter, hready, fun hreset => hanswer (hreset k hk k.lt_succ_self)⟩

end Sys2Proof.Machine
end
